-- ==== Sys2Proof/Word.lean ====
section
/-! DEFINITION. The word types of the block: one name for each width that the spec fixes (rules R7, R8, R22, R30).
`sint(v)` of rule R10 is `BitVec.toInt v`, `uint(v)` is `BitVec.toNat v`. -/

namespace Sys2Proof

/-- The 3-bit phase counter, the position in the 8-state half-step cycle (PHASE_W = 3, R8, R23). -/
abbrev Phase := BitVec 3

/-- A 32-bit two's complement half-step count (PENDING_W = COUNT_W = 32, R8). -/
abbrev Steps := BitVec 32

/-- A 27-bit unsigned number of 1 µs reference ticks (DELAY_W = PERIOD_W = 27, R8). -/
abbrev Ticks := BitVec 27

/-- The 64-bit command word (CMD_W = 64, R8, R70). -/
abbrev CmdWord := BitVec 64

/-- The 32-bit response word (RSP_W = 32, R8, R79). -/
abbrev RspWord := BitVec 32

/-- The four coil outputs: bit 0 is coil A, bit 3 is coil D, 1 is energized (R11, R30). -/
abbrev Coils := BitVec 4

end Sys2Proof
end

