-- ==== Sys2Proof/Syntax.lean ====
section
/-! DEFINITION. The host commands, one constructor for each row of spec/opcode_table.json (R2, R71). -/

namespace Sys2Proof

/-- A command of the block (R71). Ignored fields (R74) are no part of a command: the decoder drops them. -/
inductive Instr where
  /-- NOP, OP = 0x0 (R113). -/
  | nop
  /-- MOVE, OP = 0x1 (R102): DF, the requested DELAY in µs (R73) and the signed half-step COUNT (R72). -/
  | move (df : Bool) (delay : Nat) (count : Int)
  /-- STOP, OP = 0x2 (R110). -/
  | stop
  /-- STATUS, also written IS_RUNNING, OP = 0x3 (R112). -/
  | status
  /-- The table's row RESERVED (OP 0x4-0x7), R114. -/
  | reservedLow (op : Nat)
  /-- The table's row RESERVED (OP 0x8-0xF), R114. -/
  | reservedHigh (op : Nat)
deriving DecidableEq, Repr

end Sys2Proof
end

