-- ==== Sys2Proof/WellFormed.lean ====
section
/-! DEFINITION. Which commands can be encoded: each operand within the range its field holds (R71, R72, R73, R77). -/

namespace Sys2Proof

/-- Every operand lies in the range of its field: DELAY in [0, 2^27-1] (R73), COUNT in [-2^31, 2^31-1] (R72), a reserved OP
in the range of its own row (R71). -/
def Instr.wf : Instr → Bool
  | .nop => true
  | .move _ delay count => decide (delay < 2 ^ 27) && (decide (-2 ^ 31 ≤ count) && decide (count ≤ 2 ^ 31 - 1))
  | .stop => true
  | .status => true
  | .reservedLow op => decide (4 ≤ op) && decide (op ≤ 7)
  | .reservedHigh op => decide (8 ≤ op) && decide (op ≤ 15)

/-- The command can be encoded. -/
abbrev Instr.WellFormed (i : Instr) : Prop := i.wf = true

end Sys2Proof
end

