-- ==== Sys2Proof/Decode.lean ====
section
/-! DEFINITION. Command words: the fields of the one 64-bit format (R70), the decoder, total on every word and deciding by OP
alone (R71, R76), the encoder (R77), and the opcode table's mask and match rows. -/

namespace Sys2Proof

/-- OP, bits 63:60 (R70). -/
def opField (w : CmdWord) : Nat := (w.extractLsb' 60 4).toNat

/-- DF, bit 59 (R70, R73). -/
def dfField (w : CmdWord) : Bool := w.getLsbD 59

/-- DELAY, bits 58:32, unsigned (R73). -/
def delayField (w : CmdWord) : Nat := (w.extractLsb' 32 27).toNat

/-- COUNT, bits 31:0, two's complement (R72). -/
def countField (w : CmdWord) : Int := (w.extractLsb' 0 32).toInt

/-- The command a word spells (R71). Every word spells exactly one (R76), so nothing is rejected here: the reserved OPs are
commands of their own, and their meaning is IllegalCommand (R75). -/
def decode (w : CmdWord) : Instr :=
  match opField w with
  | 0 => .nop
  | 1 => .move (dfField w) (delayField w) (countField w)
  | 2 => .stop
  | 3 => .status
  | op => if op < 8 then .reservedLow op else .reservedHigh op

/-- OP of a command (R71). -/
def Instr.op : Instr → Nat
  | .nop => 0
  | .move _ _ _ => 1
  | .stop => 2
  | .status => 3
  | .reservedLow op => op
  | .reservedHigh op => op

/-- The four fields side by side, OP uppermost (R70). -/
def packFields (op : Nat) (df : Bool) (delay : Nat) (count : Int) : CmdWord :=
  BitVec.ofNat 4 op ++ (BitVec.ofBool df ++ (BitVec.ofNat 27 delay ++ BitVec.ofInt 32 count))

/-- The word of a command, with 0 in every ignored field, as an assembler writes it (R77). A MOVE with DF = 1 keeps the
DELAY it names, which the block ignores (R74). -/
def encode (i : Instr) : CmdWord :=
  match i with
  | .nop => packFields i.op false 0 0
  | .move df delay count => packFields i.op df delay count
  | .stop => packFields i.op false 0 0
  | .status => packFields i.op false 0 0
  | .reservedLow _ => packFields i.op false 0 0
  | .reservedHigh _ => packFields i.op false 0 0

/-- The name of a command's row in spec/opcode_table.json. -/
def Instr.mnemonic : Instr → String
  | .nop => "NOP"
  | .move _ _ _ => "MOVE"
  | .stop => "STOP"
  | .status => "STATUS"
  | .reservedLow _ => "RESERVED__OP_0x4-0x7"
  | .reservedHigh _ => "RESERVED__OP_0x8-0xF"

/-- One row of the opcode table: a word belongs to it when the bits under `mask` are those of `pattern`. -/
structure OpcodeRow where
  mnemonic : String
  pattern  : CmdWord
  mask     : CmdWord
deriving DecidableEq, Repr

/-- A word belongs to a row. -/
def OpcodeRow.holds (r : OpcodeRow) (w : CmdWord) : Bool := w &&& r.mask == r.pattern

/-- The rows of spec/opcode_table.json (R71). -/
def opcodeRows : List OpcodeRow :=
  [ ⟨"NOP", 0x0000000000000000, 0xF000000000000000⟩,
    ⟨"MOVE", 0x1000000000000000, 0xF000000000000000⟩,
    ⟨"STOP", 0x2000000000000000, 0xF000000000000000⟩,
    ⟨"STATUS", 0x3000000000000000, 0xF000000000000000⟩,
    ⟨"RESERVED__OP_0x4-0x7", 0x4000000000000000, 0xC000000000000000⟩,
    ⟨"RESERVED__OP_0x8-0xF", 0x8000000000000000, 0x8000000000000000⟩ ]

/-- The command read from `nbits` bits numbered as the opcode table numbers them; bits above `nbits` are 0. A command word has
64 bits and is carried whole (R52), so a longer instruction does not exist. -/
def decodeTableWord (nbits w : Nat) : Option Instr :=
  if nbits ≤ 64 then some (decode (BitVec.ofNat 64 (w % 2 ^ nbits))) else none

end Sys2Proof
end

