-- ==== Sys2Proof/Config.lean ====
section
/-! DEFINITION. What lies outside the block's own state: the input ports of one clock cycle (R30), the free input the model
takes where no input is scheduled, and the parameters of one instance (R173, decisions D19 and D22). -/

namespace Sys2Proof

/-- The input ports as they stand in one clock cycle (R30). The port `clk` is not here: one step IS one rising edge of it. -/
structure Pins where
  /-- `rst`: synchronous reset, active high (R200). -/
  rst      : Bool
  /-- `ref_tick`: the 1 MHz reference strobe (R30, R213). -/
  refTick  : Bool
  /-- `cmd_valid`: `cmd_word` holds a command this cycle. -/
  cmdValid : Bool
  /-- `cmd_word`: the command word (R70). -/
  cmdWord  : CmdWord
deriving DecidableEq, Repr, Inhabited

/-- FREE VALUE (log 2). What the host, the reference clock and the reset source (the agents of R12) put on the input ports
in the `n`-th cycle for which no input is scheduled. It has no body: nothing can be proved of it, so a statement about one
instance in such a cycle holds whatever the agents do. DESIGN CHOICE, unsafe for two instances (logs 2, 12): the constant has no
index for the instance, so every instance gets the same inputs in its own `n`-th such cycle, and the spec ties no agent of one
instance to those of another (R9, R185). -/
opaque Config.freePins : Nat → Pins

/-- OPEN parameter ROTATION_SENSE (decision D22, item U8): which way the rotor turns when `phase` rises. No rule reads it. -/
inductive RotationSense where
  | forwardIsClockwise
  | forwardIsAnticlockwise
deriving DecidableEq, Repr

/-- The parameters a platform gives one instance of the block when it binds it (R173, R203, D19, D22). -/
structure InstanceParams where
  /-- OPEN parameter PIN_MAP: the physical pin of coil A, B, C and D, in this order. -/
  pinMap        : Vector Nat 4
  /-- The platform supplies a 1 MHz `ref_tick` source. -/
  hasRefTick    : Bool
  /-- OPEN parameter ROTATION_SENSE. -/
  rotationSense : RotationSense
deriving DecidableEq, Repr

end Sys2Proof
end

