-- ==== Sys2Proof/Machine/State.lean ====
section
/-! DEFINITION. The state of the block (R22), its registered outputs (R31, R32), the inputs that are still to come (R12, R30),
the reasons a step or a construction can stop (R170), and the state after reset (R200). -/

namespace Sys2Proof.Machine

/-- Everything the spec gives the machine, and the input schedule that stands for the agents outside it. The block has no
register file, no program counter and no memory (R20, R21, R51). -/
structure State where
  /-- The phase counter (R23). -/
  phase     : Phase
  /-- The signed outstanding half-steps (R24), two's complement. -/
  pending   : Steps
  /-- Reference ticks between two tick steps (R25). -/
  period    : Ticks
  /-- Reference ticks counted since the gate was armed or last fired (R26). -/
  div       : Ticks
  /-- The tick gate is armed (R27). -/
  armed     : Bool
  /-- The coil outputs follow the ROM (R28). -/
  en        : Bool
  /-- Sticky Overflow flag (R29, R171). -/
  ovf       : Bool
  /-- Sticky IllegalCommand flag (R29, R172). -/
  ill       : Bool
  /-- Output port `rsp_valid` of the coming cycle (R30, R31). -/
  rspValid  : Bool
  /-- Output port `rsp_data` of the coming cycle (R30, R31). -/
  rspData   : RspWord
  /-- Output port `coils` of the coming cycle, the registered copy of the output mux (R32, R147). -/
  coils     : Coils
  /-- The MODEL's own field (log 1): the input ports of the coming cycles, the next cycle first. -/
  inputs    : List Pins
  /-- The MODEL's own field (log 2): how many cycles took their inputs from `Config.freePins`. -/
  freeIndex : Nat
deriving DecidableEq, Repr, Inhabited

/-- The error conditions of R170 that are recorded while the block runs. `step` and `exec` raise none of them: the block
records an error in its sticky flag and goes on (R176). `strictStep` (Machine/FaultModel.lean) stops with them, as R170's
column 'model treatment' asks; that is safe: a run that stops has fewer provable claims. -/
inductive Fault where
  /-- ResourceBusy, id 2: raised by nothing, since every instance has its own tick gate (R174, item U3). Safe. -/
  | resourceBusy
  /-- Overflow, id 3: raised by `strictStep` after a cycle that leaves `ovf` set (R171). Safe. -/
  | overflow
  /-- IllegalCommand, id 4: raised by `strictStep` after a cycle that leaves `ill` set (R172). Safe. -/
  | illegalCommand
deriving DecidableEq, Repr

/-- What the model refuses. -/
inductive Refusal where
  /-- A command without a meaning; raised by no arm of `exec`, since every command has its meaning. -/
  | notModelled (mnemonic : String)
  /-- ConfigError, id 1: raised by `construct` for an instance that may not be built (R173). Safe: a refused instance has no
  state and no steps. -/
  | configError
deriving DecidableEq, Repr

/-- The ids of R170 for the faults. -/
def Fault.id : Fault → Nat
  | .resourceBusy => 2
  | .overflow => 3
  | .illegalCommand => 4

/-- The id of R170 for a refusal, where it has one. -/
def Refusal.id : Refusal → Option Nat
  | .notModelled _ => none
  | .configError => some 1

/-- The block after a reset cycle: the reset values of R22 and R200, no response (R200), the coils off (R201), and no input
scheduled. -/
def State.reset : State :=
  { phase := 0, pending := 0, period := 1000, div := 0, armed := false, en := false, ovf := false, ill := false,
    rspValid := false, rspData := 0, coils := 0, inputs := [], freeIndex := 0 }

/-- The state in which an outcome lets the machine go on, if it does. -/
def nextOf (o : Host.Outcome State Fault Refusal) : Option State :=
  match o with
  | .next s => some s
  | .fault _ => none
  | .refused _ => none

/-- Go on with `f` where an outcome lets the machine go on, and stop as it stops otherwise. -/
def andThen (o : Host.Outcome State Fault Refusal) (f : State → Host.Outcome State Fault Refusal) :
    Host.Outcome State Fault Refusal :=
  match o with
  | .next s => f s
  | .fault r => .fault r
  | .refused r => .refused r

end Sys2Proof.Machine
end

