-- ==== Sys2Proof/Machine/Flags.lean ====
section
/-! DEFINITION. The status condition and the status word (R33, R34, R112). -/

namespace Sys2Proof.Machine

/-- RUNNING = (`pending` ≠ 0), which is not stored (R33). -/
def running (s : State) : Bool := s.pending != 0

/-- The status word, zext_32 of (ill, ovf, phase, en, armed, running), `ill` uppermost (R34, R112). -/
def statusWord (s : State) : RspWord :=
  (BitVec.ofBool s.ill ++ (BitVec.ofBool s.ovf ++ (s.phase ++ (BitVec.ofBool s.en ++
    (BitVec.ofBool s.armed ++ BitVec.ofBool (running s)))))).setWidth 32

end Sys2Proof.Machine
end

