-- ==== Sys2Proof/Machine/Operands.lean ====
section
/-! DEFINITION. The operands of MOVE: the constants the spec fixes for them (R7, R8), the exact sum and its range (R102, R104)
and the effective period (R103). -/

namespace Sys2Proof.Machine

/-- MIN_PERIOD, 500 ticks of 1 µs (R7). -/
def minPeriod : Nat := 500

/-- DEFAULT_DELAY, 1 ms = 1000 ticks (R7). -/
def defaultDelay : Nat := 1000

/-- `s <- pending + count` of R102, on mathematical integers. -/
def exactSum (pending : Steps) (count : Int) : Int := pending.toInt + count

/-- `pending` can hold the value: it lies in [-2^31, 2^31-1] (R8, R104). -/
def fitsPending (x : Int) : Bool := decide (-2 ^ 31 ≤ x) && decide (x ≤ 2 ^ 31 - 1)

/-- The 32-bit two's complement word of a sum (R102). -/
def stepsOf (x : Int) : Steps := BitVec.ofInt 32 x

/-- The period a MOVE with count ≠ 0 sets: 1000 ticks with DF = 1, else the delay clamped from below at 500 (R103). -/
def effectiveTicks (df : Bool) (delay : Nat) : Nat := if df then defaultDelay else max minPeriod delay

/-- The same as the 27-bit word of the register `period`. -/
def effectivePeriod (df : Bool) (delay : Nat) : Ticks := BitVec.ofNat 27 (effectiveTicks df delay)

end Sys2Proof.Machine
end

