-- ==== Sys2Proof/Machine/Rom.lean ====
section
/-! DEFINITION. The coil-pattern ROM, the phase sequence and the output mux (R50, R90, R91, R147). -/

namespace Sys2Proof.Machine

/-- PATTERN = 0b0000011100000111 = 0x0707, the block's only storage beside its registers (R50, R90). -/
def pattern : BitVec 16 := 0x0707

/-- `ROM(i)` is bit i of PATTERN (R90). -/
def rom (i : Nat) : Bool := pattern.getLsbD i

/-- `sequence(p)`: output bit i is `ROM(p + 2*i)`, coil D (i = 3) uppermost (R91). -/
def romSequence (p : Phase) : Coils :=
  BitVec.ofBool (rom (p.toNat + 6)) ++ (BitVec.ofBool (rom (p.toNat + 4)) ++
    (BitVec.ofBool (rom (p.toNat + 2)) ++ BitVec.ofBool (rom p.toNat)))

/-- The output mux: the ROM at the current phase, or all-off (R147). -/
def mux (en : Bool) (phase : Phase) : Coils := if en then romSequence phase else 0

end Sys2Proof.Machine
end

