-- ==== Sys2Proof/Machine/Ops.lean ====
section
/-! DEFINITION. The operations that commands, ticks and cycles share: responding (R31), arming and disarming the tick gate
(R27, R28, R106, R107), recording an error (R171, R172, R176), RESET (R200) and the output registers (R32, R147). -/

namespace Sys2Proof.Machine

/-- `respond(v)`: `rsp_valid` = 1 and `rsp_data` = v in the cycle after this one (R31). -/
def respond (v : RspWord) (s : State) : State := { s with rspValid := true, rspData := v }

/-- What the response port shows after a cycle that sent no response: both 0 (R31). -/
def clearResponse (s : State) : State := { s with rspValid := false, rspData := 0 }

/-- Arm or re-arm the tick gate: a new schedule starts now (R106). The coils are left as they are (R28). -/
def rearm (s : State) : State := { s with armed := true, div := 0 }

/-- Disarm the tick gate and turn the coils off in the same step (R27, R28, R62, R107). -/
def disarm (s : State) : State := { s with armed := false, en := false, div := 0 }

/-- The block's two run-time errors (R170). -/
inductive ErrorKind where
  | overflow
  | illegalCommand
deriving DecidableEq, Repr

/-- TAKING AN EXCEPTION: there is no trap (R176). The command is dropped, its sticky flag is set and nothing else changes
(R171, R172). There is no return from one (R177): a flag once set stays until RESET. -/
def raiseError (e : ErrorKind) (s : State) : State :=
  match e with
  | .overflow => { s with ovf := true }
  | .illegalCommand => { s with ill := true }

/-- RESET: every register takes its reset value, and no response is sent (R200). -/
def applyReset (s : State) : State :=
  { s with phase := 0, pending := 0, period := 1000, div := 0, armed := false, en := false, ovf := false, ill := false,
           rspValid := false, rspData := 0 }

/-- The coil outputs take the output mux's value at the end of a cycle (R32, R147). -/
def latchCoils (s : State) : State := { s with coils := mux s.en s.phase }

end Sys2Proof.Machine
end

