-- ==== Sys2Proof/Machine/Commands.lean ====
section
/-! DEFINITION. The meaning of each command, applied to the state that the tick step of its cycle left (R100, R150). -/

namespace Sys2Proof.Machine

/-- MOVE with count ≠ 0 and a sum that fits: `period` and `pending` are written, and the gate is re-armed, or disarmed with
the coils off when the sum is 0 (R102, R103, R106, R107). -/
def acceptMove (df : Bool) (delay : Nat) (count : Int) (s : State) : State :=
  let sum := exactSum s.pending count
  let s' := { s with period := effectivePeriod df delay, pending := stepsOf sum }
  if sum ≠ 0 then rearm s' else disarm s'

/-- MOVE with count = 0: disarm if `pending` = 0, and nothing else (R105). -/
def moveNothing (s : State) : State := if s.pending = 0 then disarm s else s

/-- MOVE: add a signed half-step count to `pending` and arm or disarm the gate; a sum out of range raises Overflow
(R102 to R108). -/
def execMove (df : Bool) (delay : Nat) (count : Int) (s : State) : Host.Outcome State Fault Refusal :=
  .next (if fitsPending (exactSum s.pending count) then
           if count = 0 then moveNothing s else acceptMove df delay count s
         else raiseError .overflow s)

/-- STOP: respond with the outstanding steps, then cancel them, disarm and turn the coils off (R110, R111). -/
def execStop (s : State) : Host.Outcome State Fault Refusal :=
  .next (disarm { respond s.pending s with pending := 0 })

/-- STATUS: respond with the status word; no register is written (R112). -/
def execStatus (s : State) : Host.Outcome State Fault Refusal := .next (respond (statusWord s) s)

/-- NOP: no register is written and no response is sent (R113). -/
def execNop (s : State) : Host.Outcome State Fault Refusal := .next s

/-- A reserved OP in 0x4 to 0x7 raises IllegalCommand (R114, R172). -/
def execReservedLow (_op : Nat) (s : State) : Host.Outcome State Fault Refusal := .next (raiseError .illegalCommand s)

/-- A reserved OP in 0x8 to 0xF raises IllegalCommand (R114, R172). -/
def execReservedHigh (_op : Nat) (s : State) : Host.Outcome State Fault Refusal := .next (raiseError .illegalCommand s)

end Sys2Proof.Machine
end

