-- ==== Sys2Proof/Machine/Tick.lean ====
section
/-! DEFINITION. The tick gate (R140, R141) and the tick step (R143, R145). -/

namespace Sys2Proof.Machine

/-- `fire` of GATE: the gate is armed, the reference strobes, and the count reaches `period` (R140). -/
def gateFires (refTick : Bool) (s : State) : Bool :=
  s.armed && (refTick && decide (s.period.toNat ≤ s.div.toNat + 1))

/-- GATE's write: while armed, a strobe clears the divider when the gate fires and counts it up otherwise (R140). While
disarmed nothing happens (R141). -/
def applyGate (refTick : Bool) (s : State) : State :=
  if s.armed && refTick then
    { s with div := if s.period.toNat ≤ s.div.toNat + 1 then 0 else s.div + 1 }
  else s

/-- The direction of the next half-step, the sign of `pending` (R10, R143). -/
def direction (pending : Steps) : Int := Int.sign pending.toInt

/-- TICK with `pending` ≠ 0: one half-step (R143). -/
def stepMotor (s : State) : State :=
  { s with phase := BitVec.ofInt 3 (s.phase.toNat + direction s.pending), en := true,
           pending := stepsOf (s.pending.toInt - direction s.pending) }

/-- TICK: a half-step, or the terminal disarm when `pending` = 0 at entry (R143, R145). -/
def tick (s : State) : State := if s.pending ≠ 0 then stepMotor s else disarm s

/-- GATE, and TICK in the same cycle when the gate fires (R140, R150). -/
def gateAndTick (refTick : Bool) (s : State) : State :=
  if gateFires refTick s then tick (applyGate refTick s) else applyGate refTick s

end Sys2Proof.Machine
end

