-- ==== Sys2Proof/Machine/Cycle.lean ====
section
/-! DEFINITION. One clock cycle (R150): reset alone, or the gate, the tick step and then the command; the response and coil
registers (R31, R147); and the inputs of a cycle. -/

namespace Sys2Proof.Machine

/-- What the cycle does before its command: the response port falls back to 0, then GATE and TICK (R31, R150). -/
def beforeCommand (refTick : Bool) (s : State) : State := gateAndTick refTick (clearResponse s)

/-- COMMAND, if the cycle carries one (R100, R115). -/
def applyCommand (p : Pins) (s : State) : Host.Outcome State Fault Refusal :=
  if p.cmdValid then exec (decode p.cmdWord) s else .next s

/-- CYCLE(rst, ref_tick, cmd_valid, cmd_word) of R150. A cycle with `rst` = 1 applies RESET alone (R200). -/
def cycle (p : Pins) (s : State) : Host.Outcome State Fault Refusal :=
  if p.rst then .next (latchCoils (applyReset s))
  else andThen (applyCommand p (beforeCommand p.refTick s)) fun t => .next (latchCoils t)

/-- The input ports of the coming cycle: the head of the schedule, or a free value when nothing is scheduled (logs 1, 2). DESIGN
CHOICE, unsafe (logs 2, 12): two instances with the same `freeIndex` read the same free value, where the spec leaves it open whether
their agents act alike (R9, R185). -/
def State.pins (s : State) : Pins :=
  match s.inputs with
  | p :: _ => p
  | [] => Config.freePins s.freeIndex

/-- The schedule once the coming cycle has taken its inputs. -/
def State.takePins (s : State) : State :=
  match s.inputs with
  | _ :: ps => { s with inputs := ps }
  | [] => { s with freeIndex := s.freeIndex + 1 }

/-- The cycles with the given inputs, one after another. -/
def runCycles (ps : List Pins) (s : State) : Host.Outcome State Fault Refusal :=
  match ps with
  | [] => .next s
  | p :: rest => andThen (cycle p s) (runCycles rest)

/-- Commands one after another with no tick step among them (R57, R116). -/
def runCommands (is : List Instr) (s : State) : Host.Outcome State Fault Refusal :=
  match is with
  | [] => .next s
  | i :: rest => andThen (exec i s) (runCommands rest)

/-- The input ports of a cycle that carries the 64-bit word of `nbits` bits as its command, with no reset and no strobe. -/
def commandPins (nbits w : Nat) : Pins :=
  { rst := false, refTick := false, cmdValid := true, cmdWord := BitVec.ofNat 64 (w % 2 ^ nbits) }

/-- Put the inputs of one cycle in the place the next step takes its inputs from. -/
def State.placePins (p : Pins) (s : State) : State := { s with inputs := p :: s.inputs.tail }

end Sys2Proof.Machine
end

