-- ==== Sys2Proof/Machine/Step.lean ====
section
/-! DEFINITION. One step of the machine is one clock cycle (R6, R150). -/

namespace Sys2Proof.Machine

/-- One rising edge of `clk`: take the inputs of the cycle and apply it. -/
def step (s : State) : Host.Outcome State Fault Refusal := cycle s.pins s.takePins

/-- The state whose next step runs the command word `w` (of `nbits` bits): the block has no program and fetches nothing (R21),
so the word is placed on the command port of the next cycle (log 3). -/
def State.withFetchWord (s : State) (nbits w : Nat) : State := s.placePins (commandPins nbits w)

end Sys2Proof.Machine
end

