-- ==== Sys2Proof/Machine/Assembler.lean ====
section
/-! DEFINITION. The assembler syntax (R77), its pseudo-instructions (R78), and the disassembler (R77). Text is a list of
characters; log 9 says what of the text's form the spec leaves open. -/

namespace Sys2Proof.Machine

/-- One line of assembler, as R77's table lists them; `word` is the disassembler's `.word 0x<hex>`. -/
inductive AsmLine where
  | nop
  /-- `MOVE <count>, <delay>`. -/
  | moveDelay (count delay : Int)
  /-- `MOVE <count>`, the pseudo-instruction with the default delay (R78). -/
  | moveDefault (count : Int)
  | stop
  | status
  /-- `IS_RUNNING`, another name of STATUS (R78). -/
  | isRunning
  | word (w : CmdWord)
deriving DecidableEq, Repr

/-- The command a line stands for, whether or not its operands are in range (R77, R78). -/
def AsmLine.command : AsmLine → Instr
  | .nop => .nop
  | .moveDelay count delay => .move false delay.toNat count
  | .moveDefault count => .move true 0 count
  | .stop => .stop
  | .status => .status
  | .isRunning => .status
  | .word w => decode w

/-- The operands are in the ranges of R77. -/
def AsmLine.inRange : AsmLine → Bool
  | .nop => true
  | .moveDelay count delay => decide (0 ≤ delay) && (Instr.move false delay.toNat count).wf
  | .moveDefault count => (Instr.move true 0 count).wf
  | .stop => true
  | .status => true
  | .isRunning => true
  | .word _ => true

/-- The word of a line. An operand out of range is refused; it neither wraps nor saturates (R77). -/
def assemble (l : AsmLine) : Option CmdWord :=
  match l with
  | .word w => some w
  | l => if l.inRange then some (encode l.command) else none

/-- The line of a word: `MOVE <count>` when DF = 1, `.word` for a reserved OP (R77). -/
def disassemble (w : CmdWord) : AsmLine :=
  match decode w with
  | .nop => .nop
  | .move df delay count => if df then .moveDefault count else .moveDelay count delay
  | .stop => .stop
  | .status => .status
  | .reservedLow _ => .word w
  | .reservedHigh _ => .word w

/-- The line the disassembler prints for an assembled line: an alias is printed under the command's own name (R77, R78). -/
def AsmLine.canonical (l : AsmLine) : AsmLine :=
  match l with
  | .isRunning => .status
  | .word w => disassemble w
  | l => l

/-- The digits of a number, most significant first; `fuel` bounds their count. -/
def digitsOf (base : Nat) (fuel n : Nat) (tail : List Char) : List Char :=
  match fuel with
  | 0 => tail
  | f + 1 =>
    let c := if n % base < 10 then Char.ofNat (48 + n % base) else Char.ofNat (55 + n % base)
    if n / base = 0 then c :: tail else digitsOf base f (n / base) (c :: tail)

/-- A decimal integer; 64 digits are more than any operand in range has. -/
def printInt (x : Int) : List Char :=
  if x < 0 then '-' :: digitsOf 10 64 x.natAbs [] else digitsOf 10 64 x.natAbs []

/-- The text of a line (R77). -/
def AsmLine.print : AsmLine → List Char
  | .nop => ['N', 'O', 'P']
  | .moveDelay count delay => ['M', 'O', 'V', 'E', ' '] ++ printInt count ++ [',', ' '] ++ printInt delay
  | .moveDefault count => ['M', 'O', 'V', 'E', ' '] ++ printInt count
  | .stop => ['S', 'T', 'O', 'P']
  | .status => ['S', 'T', 'A', 'T', 'U', 'S']
  | .isRunning => ['I', 'S', '_', 'R', 'U', 'N', 'N', 'I', 'N', 'G']
  | .word w => ['.', 'w', 'o', 'r', 'd', ' ', '0', 'x'] ++ digitsOf 16 64 w.toNat []

/-- The value of a digit, if it is one in the base. -/
def digitValue (base : Nat) (c : Char) : Option Nat :=
  let n := c.toNat
  let d := if 48 ≤ n ∧ n ≤ 57 then n - 48 else if 65 ≤ n ∧ n ≤ 70 then n - 55 else if 97 ≤ n ∧ n ≤ 102 then n - 87 else base
  if d < base then some d else none

/-- A non-empty string of digits, read after the value of the digits before it. -/
def readDigits (base : Nat) : Nat → List Char → Option Nat
  | _, [] => none
  | acc, [c] => (digitValue base c).map fun d => acc * base + d
  | acc, c :: cs => (digitValue base c).bind fun d => readDigits base (acc * base + d) cs

/-- A decimal or 0x number (R77). -/
def readNat (cs : List Char) : Option Nat :=
  match cs with
  | '0' :: 'x' :: hs => readDigits 16 0 hs
  | _ => readDigits 10 0 cs

/-- A decimal or 0x integer (R77). -/
def readInt (cs : List Char) : Option Int :=
  match cs with
  | '-' :: ds => (readNat ds).map fun n => -(n : Int)
  | _ => (readNat cs).map fun n => (n : Int)

/-- Put a finished word before the tokens that follow it. -/
def flush (word : List Char) (rest : List (List Char)) : List (List Char) := if word = [] then rest else word :: rest

/-- The word being read and the tokens after it, from the right: spaces separate words and a comma is a token of its own. -/
def tokenStep (c : Char) (state : List Char × List (List Char)) : List Char × List (List Char) :=
  if c = ' ' then ([], flush state.1 state.2)
  else if c = ',' then ([], [','] :: flush state.1 state.2)
  else (c :: state.1, state.2)

/-- The tokens of a line. -/
def tokens (cs : List Char) : List (List Char) :=
  let ended := cs.foldr tokenStep ([], [])
  flush ended.1 ended.2

/-- Read one line of assembler (R77); none where it is no line of R77's table. -/
def parseLine (cs : List Char) : Option AsmLine :=
  match tokens cs with
  | [['N', 'O', 'P']] => some .nop
  | [['S', 'T', 'O', 'P']] => some .stop
  | [['S', 'T', 'A', 'T', 'U', 'S']] => some .status
  | [['I', 'S', '_', 'R', 'U', 'N', 'N', 'I', 'N', 'G']] => some .isRunning
  | [['M', 'O', 'V', 'E'], count] => (readInt count).map .moveDefault
  | [['M', 'O', 'V', 'E'], count, [','], delay] =>
    (readInt count).bind fun c => (readInt delay).map fun d => .moveDelay c d
  | [['.', 'w', 'o', 'r', 'd'], number] =>
    (readNat number).bind fun n => if n < 2 ^ 64 then some (.word (BitVec.ofNat 64 n)) else none
  | _ => none

end Sys2Proof.Machine
end

