-- ==== Sys2Proof/Machine/FaultModel.lean ====
section
/-! DEFINITION. The fault model of R170, R171 and R172: a run in which an error is recorded is not a run the source describes, so a
model may stop there. The block itself goes on, and `step` is the block; `strictStep` is the stopping view of it (log 4). -/

namespace Sys2Proof.Machine

/-- The error a state has recorded in its sticky flags, as a fault of R170. -/
def recordedFault (s : State) : Option Fault :=
  if s.ovf then some .overflow else if s.ill then some .illegalCommand else none

/-- Stop where an error stands recorded. -/
def stopOnRecorded (s : State) : Host.Outcome State Fault Refusal :=
  match recordedFault s with
  | some f => .fault f
  | none => .next s

/-- A cycle of the block that ends in a fault when it leaves a sticky error flag set (R170, D2, D5). -/
def strictStep (s : State) : Host.Outcome State Fault Refusal := andThen (step s) stopOnRecorded

end Sys2Proof.Machine
end

