-- ==== Sys2Proof/Machine/Platform.lean ====
section
/-! DEFINITION. Building an instance (R173, R203), its physical pins (D19), and several instances side by side (R9, R185). -/

namespace Sys2Proof.Machine

/-- A binding may be built: PIN_MAP gives the four coils four distinct pins and a 1 MHz `ref_tick` is supplied (R173). -/
def bindable (b : InstanceParams) : Bool := decide b.pinMap.toList.Nodup && b.hasRefTick

/-- FREE VALUE (log 5). What the registers and the outputs hold after power-up, before the first reset cycle: unspecified (R202,
items U1 and U2). It has no body, so nothing can be proved of it. -/
opaque powerOn : State

/-- The inputs of a reset cycle (R200). -/
def resetPins : Pins := { rst := true, refTick := false, cmdValid := false, cmdWord := 0 }

/-- `construct(pinA..pinD, timer)`: the instance parameters and a reset cycle after power-up (R2, R203), with no input scheduled
yet; or ConfigError (R173). Every instance is built with `freeIndex` = 0, so the free inputs of two instances agree (DESIGN CHOICE,
unsafe, logs 2 and 12). -/
def construct (b : InstanceParams) : Host.Outcome State Fault Refusal :=
  if bindable b then cycle resetPins { powerOn with inputs := [], freeIndex := 0 } else .refused .configError

/-- The level an instance drives on a physical pin, if the pin is one of its four: 1 where the coil is energized (R30, D13). -/
def pinLevel (b : InstanceParams) (s : State) (pin : Nat) : Option Bool :=
  (b.pinMap.toList.idxOf? pin).map s.coils.getLsbD

/-- Several instances on one platform, one state each: they share no state (R185). Inputs of their own are what a claim about several
instances schedules for each; where nothing is scheduled their inputs are tied by `Config.freePins` (log 12). -/
abbrev Platform := List State

/-- A clock edge of instance `k` alone; instances are not synchronized with each other (R185). None where there is no
instance `k` or it does not go on. -/
def stepInstance (k : Nat) (ps : Platform) : Option Platform :=
  match ps[k]? with
  | some s => (nextOf (step s)).map (ps.set k)
  | none => none

end Sys2Proof.Machine
end

