-- ==== Sys2Proof/Machine/Events.lean ====
section
/-! DEFINITION. The untimed abstraction (R151, decision D21): the block as a machine over the events Cmd, Tick and Reset, in any
interleaving, and the part of the state that does not depend on clock cycles. -/

namespace Sys2Proof.Machine

/-- The three events of R151. -/
inductive Event where
  /-- `Cmd(w)`, enabled in every state. -/
  | cmd (w : CmdWord)
  /-- `Tick`, enabled only when `armed` = 1. -/
  | tick
  /-- `Reset`, enabled in every state. -/
  | reset
deriving DecidableEq, Repr

/-- Whether an event is enabled (R151). -/
def Event.enabled (e : Event) (s : State) : Bool :=
  match e with
  | .cmd _ => true
  | .tick => s.armed
  | .reset => true

/-- What an enabled event does: the rules of the command, of TICK and of RESET themselves (R151). The coil register follows
the state each event leaves, and the response port shows that event's response. -/
def applyEvent (e : Event) (s : State) : Option State :=
  if e.enabled s then
    match e with
    | .cmd w => (nextOf (exec (decode w) (clearResponse s))).map latchCoils
    | .tick => some (latchCoils (tick (clearResponse s)))
    | .reset => some (latchCoils (applyReset s))
  else none

/-- A sequence of events; none where one of them is not enabled. -/
def runEvents (es : List Event) (s : State) : Option State :=
  match es with
  | [] => some s
  | e :: rest => (applyEvent e s).bind (runEvents rest)

/-- What is left of a state when clock cycles are dropped: the registers the events read and write, without the divider and
the ports. -/
structure UntimedView where
  phase   : Phase
  pending : Steps
  period  : Ticks
  armed   : Bool
  en      : Bool
  ovf     : Bool
  ill     : Bool
deriving DecidableEq, Repr

/-- The untimed part of a state. -/
def State.untimed (s : State) : UntimedView := ⟨s.phase, s.pending, s.period, s.armed, s.en, s.ovf, s.ill⟩

/-- The tick events of a cycle: one when the gate fires, none otherwise (R150). -/
def tickEvents (refTick : Bool) (s : State) : List Event := if gateFires refTick s then [.tick] else []

/-- The command events of a cycle (R150). -/
def commandEvents (p : Pins) : List Event := if p.cmdValid then [.cmd p.cmdWord] else []

/-- The events of one cycle: a Reset alone, or at most one Tick followed by at most one Cmd (R151). -/
def cycleEvents (p : Pins) (s : State) : List Event :=
  if p.rst then [.reset] else tickEvents p.refTick s ++ commandEvents p

/-- The events of a stretch of cycles (R151). -/
def eventsOf (ps : List Pins) (s : State) : List Event :=
  match ps with
  | [] => []
  | p :: rest => cycleEvents p s ++ ((nextOf (cycle p s)).map (eventsOf rest)).getD []

end Sys2Proof.Machine
end

