-- ==== Sys2Proof/Safety.lean ====
section
/-! DEFINITION. The terms in which claims about the block are put: the invariants of R36, the state classes of R37, the
displacement of R153, and what a stretch of inputs asks of the block. -/

namespace Sys2Proof.Machine

/-- The invariants of R36, numbered as there. The first, `phase` in [0,8), holds by the register's width. -/
structure State.Inv (s : State) : Prop where
  /-- R36 (2). -/
  disarmed_idle   : s.armed = false → s.pending = 0
  /-- R36 (3). -/
  disarmed_off    : s.armed = false → s.en = false
  /-- R36 (4): the terminal dwell. -/
  dwell_energized : s.armed = true → s.pending = 0 → s.en = true
  /-- R36 (5). -/
  disarmed_div    : s.armed = false → s.div = 0
  /-- R36 (6). -/
  armed_div       : s.armed = true → s.div.toNat < s.period.toNat
  /-- R36 (7). -/
  period_min      : 500 ≤ s.period.toNat

/-- What the output registers hold between cycles: the mux of the registers, and 0 on `rsp_data` without a response
(R31, R32, R147). -/
structure State.OutputsLatched (s : State) : Prop where
  coils_mux   : s.coils = mux s.en s.phase
  no_response : s.rspValid = false → s.rspData = 0

/-- The classes of R37. -/
inductive StateClass where
  | idle
  | armedNoStep
  | stepping
  | terminalDwell
deriving DecidableEq, Repr

/-- The class of a state by R37's columns `armed`, `en` and `pending`; none for the combinations R37 calls not reachable. -/
def State.classOf (s : State) : Option StateClass :=
  match s.armed, s.en, s.pending == 0 with
  | false, false, true => some .idle
  | true, false, false => some .armedNoStep
  | true, true, false => some .stepping
  | true, true, true => some .terminalDwell
  | false, false, false => none
  | false, true, _ => none
  | true, false, true => none

/-- How many coils a pattern energizes. -/
def coilCount (c : Coils) : Nat :=
  (c.getLsbD 0).toNat + (c.getLsbD 1).toNat + (c.getLsbD 2).toNat + (c.getLsbD 3).toNat

/-- Q = (`phase` + `pending`) mod 8, the displacement of R153. -/
def State.displacement (s : State) : Int := (s.phase.toNat + s.pending.toInt) % 8

/-- The sum of an accepted MOVE's count and of what a STOP takes away, the event's contribution to R153. -/
def Event.contribution (e : Event) (s : State) : Int :=
  match e with
  | .cmd w =>
    match decode w with
    | .move _ _ count => if fitsPending (exactSum s.pending count) then count else 0
    | .stop => -s.pending.toInt
    | .nop => 0
    | .status => 0
    | .reservedLow _ => 0
    | .reservedHigh _ => 0
  | .tick => 0
  | .reset => 0

/-- Σ c - Σ P along a run of events (R153). -/
def netContribution (es : List Event) (s : State) : Int :=
  match es with
  | [] => 0
  | e :: rest =>
    e.contribution s + (match applyEvent e s with
      | some t => netContribution rest t
      | none => 0)

/-- Inputs without a reset and without a command. -/
def quiet (ps : List Pins) : Bool := ps.all fun p => !p.rst && !p.cmdValid

/-- How many cycles strobe the 1 MHz reference. -/
def strobes (ps : List Pins) : Nat := ps.countP fun p => p.refTick

/-- A cycle that does not touch the schedule of the gate while something is pending: no reset, and no command or one of those a
host may poll with, NOP, STATUS and MOVE 0 (R206), or a reserved OP, which writes `ill` alone (R114). -/
def keepsSchedule (p : Pins) : Bool :=
  !p.rst && (!p.cmdValid || match decode p.cmdWord with
    | .nop => true
    | .move _ _ count => decide (count = 0)
    | .stop => false
    | .status => true
    | .reservedLow _ => true
    | .reservedHigh _ => true)

/-- One round of a host that moves and then waits: a cycle with the command word, and the cycles up to the next such command. -/
structure MoveRound where
  /-- `ref_tick` in the command's cycle. -/
  refTick : Bool
  /-- The command word. -/
  word    : CmdWord
  /-- The cycles after it. -/
  gap     : List Pins
deriving DecidableEq, Repr

/-- The cycles of a round. -/
def MoveRound.cycles (m : MoveRound) : List Pins :=
  { rst := false, refTick := m.refTick, cmdValid := true, cmdWord := m.word } :: m.gap

/-- The sum of the counts of rounds (R72). -/
def roundCounts (ms : List MoveRound) : Int := (ms.map fun m => countField m.word).sum

end Sys2Proof.Machine
end

