-- ==== Sys2Proof/Certificates/Slice0/Obligations.lean ====
section
/-! DEFINITION. The statements for the provers. Each says in its docstring which rule of the spec it formalises. -/

open Sys2Proof Sys2Proof.Machine

/-! ## Encoding -/

/-- The encoding examples of R80's table assemble to their words, and the disassembler of R77 prints each word as its line. That
the line for the table's last row, 'reserved OP 0x4', is a `.word` line (as in program P4 of 95_test_vectors.md) and how the text
of a line is read and printed is the model's choice (log 9). -/
def Obligations.SpecEncodingExamplesAssemble : Prop :=
  ∀ e ∈ ([ ("NOP", 0x0000000000000000), ("MOVE 4", 0x1800000000000004), ("MOVE -3", 0x18000000FFFFFFFD),
           ("MOVE 50", 0x1800000000000032), ("MOVE 0", 0x1800000000000000), ("MOVE 5, 2000", 0x100007D000000005),
           ("MOVE 2, 0", 0x1000000000000002), ("MOVE 10, 0", 0x100000000000000A), ("MOVE 1, 499", 0x100001F300000001),
           ("MOVE 1, 500", 0x100001F400000001), ("MOVE 1, 501", 0x100001F500000001),
           ("MOVE 1, 134217727", 0x17FFFFFF00000001), ("MOVE -1, 1000", 0x100003E8FFFFFFFF),
           ("MOVE 2147483647", 0x180000007FFFFFFF), ("MOVE -2147483648, 500", 0x100001F480000000),
           ("STOP", 0x2000000000000000), ("STATUS", 0x3000000000000000),
           (".word 0x4000000000000000", 0x4000000000000000) ] : List (String × CmdWord)),
    (parseLine e.1.toList).bind assemble = some e.2 ∧ (disassemble e.2).print = e.1.toList

/-- Words written out by hand from the format of R70 decode to the commands they stand for, one of each row. -/
def Obligations.HandWrittenWordsDecode : Prop :=
  decode 0b0000000000000000000000000000000000000000000000000000000000000000 = .nop ∧
  decode 0b0001000000000000000001111101000000000000000000000000000000000101 = .move false 2000 5 ∧
  decode 0b0001100000000000000000000000010111111111111111111111111111111011 = .move true 5 (-5) ∧
  decode 0b0010000000000000000000000000000000000000000000000000000000000000 = .stop ∧
  decode 0b0011000000000000000000000000000000000000000000000000000000000000 = .status ∧
  decode 0b0110000000000000000000000000000000000000000000000000000000000001 = .reservedLow 6 ∧
  decode 0b1111100000000000000000000000000000000000000000000000000000000100 = .reservedHigh 15

/-- R71 and R72: OP alone selects the command; COUNT is bits 31:0 as a 32-bit two's complement integer. The operands DF and
DELAY are bits 59 and 58:32 (R73). -/
def Obligations.OpFieldSelectsTheCommand : Prop :=
  ∀ w : CmdWord,
    ((w.extractLsb 63 60).toNat = 0 → decode w = .nop) ∧
    ((w.extractLsb 63 60).toNat = 1 →
      decode w = .move (w.getLsbD 59) (w.extractLsb 58 32).toNat (w.extractLsb 31 0).toInt) ∧
    ((w.extractLsb 63 60).toNat = 2 → decode w = .stop) ∧
    ((w.extractLsb 63 60).toNat = 3 → decode w = .status) ∧
    (4 ≤ (w.extractLsb 63 60).toNat → (w.extractLsb 63 60).toNat ≤ 7 →
      decode w = .reservedLow (w.extractLsb 63 60).toNat) ∧
    (8 ≤ (w.extractLsb 63 60).toNat → decode w = .reservedHigh (w.extractLsb 63 60).toNat) ∧
    -2 ^ 31 ≤ (w.extractLsb 31 0).toInt ∧ (w.extractLsb 31 0).toInt ≤ 2 ^ 31 - 1

/-- Every word belongs to exactly one row of spec/opcode_table.json, the row of the command it decodes to (R71, R76). -/
def Obligations.EveryWordHasExactlyOneTableRow : Prop :=
  ∀ w : CmdWord, ∃ r ∈ opcodeRows, r.holds w = true ∧ r.mnemonic = (decode w).mnemonic ∧
    ∀ r' ∈ opcodeRows, r'.holds w = true → r' = r

/-- Decoding the word of any well-formed command gives the command back, with every operand (R70 to R73, R77). -/
def Obligations.DecodeInvertsEncode : Prop := ∀ i : Instr, i.WellFormed → decode (encode i) = i

/-- Every word decodes to a well-formed command (R76), and encoding that gives the word back with bits 59:0 cleared for every
command but MOVE, as R74 and R77 have it, and the word itself for a MOVE. That the DELAY of a MOVE with DF = 1, an ignored
field by R74, is kept here is the model's choice (log 8). -/
def Obligations.EncodeOfDecodeClearsIgnoredBits : Prop :=
  ∀ w : CmdWord, (decode w).WellFormed ∧
    encode (decode w) = if (w.extractLsb 63 60).toNat = 1 then w else w &&& 0xF000000000000000

/-- R74: a command means the same whatever its ignored fields hold, and no word with OP below 4 is illegal for them. -/
def Obligations.IgnoredFieldsNeverMatter : Prop :=
  (∀ (w w' : CmdWord) (s : State),
    w.extractLsb 63 60 = w'.extractLsb 63 60 →
    ((w.extractLsb 63 60).toNat = 1 → w.getLsbD 59 = w'.getLsbD 59 ∧ w.extractLsb 31 0 = w'.extractLsb 31 0 ∧
      (w.getLsbD 59 = false → w.extractLsb 58 32 = w'.extractLsb 58 32)) →
    exec (decode w) s = exec (decode w') s) ∧
  (∀ (w : CmdWord) (s t : State), (w.extractLsb 63 60).toNat < 4 → exec (decode w) s = .next t → t.ill = s.ill)

/-- An assembler refuses a count or a delay out of range and otherwise gives the word of R77's table (R77). -/
def Obligations.AssemblerRefusesOutOfRange : Prop :=
  ∀ count delay : Int,
    assemble (.moveDelay count delay) =
      (if -2 ^ 31 ≤ count ∧ count ≤ 2 ^ 31 - 1 ∧ 0 ≤ delay ∧ delay < 2 ^ 27 then
        some (0x1#4 ++ (0#1 ++ (BitVec.ofInt 27 delay ++ BitVec.ofInt 32 count))) else none) ∧
    assemble (.moveDefault count) =
      (if -2 ^ 31 ≤ count ∧ count ≤ 2 ^ 31 - 1 then
        some (0x1#4 ++ (1#1 ++ (0#27 ++ BitVec.ofInt 32 count))) else none)

/-- The pseudo-instruction `MOVE c` expands to the MOVE word with DF = 1, DELAY = 0 and COUNT = c, for every count that R77 allows,
and has the effect of `MOVE c, 1000`; IS_RUNNING is STATUS (R78). -/
def Obligations.DefaultMoveEqualsThousandTicks : Prop :=
  (∀ count : Int, -2 ^ 31 ≤ count → count ≤ 2 ^ 31 - 1 →
    assemble (.moveDefault count) = some (0x1#4 ++ (1#1 ++ (0#27 ++ BitVec.ofInt 32 count)))) ∧
  (∀ (count : Int) (w w' : CmdWord) (s : State), assemble (.moveDefault count) = some w →
    assemble (.moveDelay count 1000) = some w' → exec (decode w) s = exec (decode w') s) ∧
  assemble .isRunning = assemble .status

/-- The disassembler gives an assembled line back, an alias under the command's own name (R77, R78). Of any word it gives
`MOVE <count>` for a MOVE with DF = 1, `MOVE <count>, <delay>` for one with DF = 0, and `.word` for every reserved OP (R77). -/
def Obligations.DisassembleInvertsAssemble : Prop :=
  (∀ (l : AsmLine) (w : CmdWord), assemble l = some w → disassemble w = l.canonical) ∧
  ∀ w : CmdWord,
    (4 ≤ (w.extractLsb 63 60).toNat → disassemble w = .word w) ∧
    ((w.extractLsb 63 60).toNat = 1 → w.getLsbD 59 = true → disassemble w = .moveDefault (w.extractLsb 31 0).toInt) ∧
    ((w.extractLsb 63 60).toNat = 1 → w.getLsbD 59 = false →
      disassemble w = .moveDelay (w.extractLsb 31 0).toInt (w.extractLsb 58 32).toNat)

/-! ## The coil-pattern ROM and the output mux -/

/-- R91 and R92: output bit i of `sequence(p)` is bit p + 2i of 0x0707, and the eight shifted values and patterns. -/
def Obligations.RomSequenceTable : Prop :=
  (∀ (p : Phase) (i : Fin 4), (romSequence p).getLsbD i = (0x0707 : BitVec 16).getLsbD (p.toNat + 2 * i)) ∧
  ∀ e ∈ ([ (0, 0x0707, 0x3), (1, 0x0383, 0x1), (2, 0x01C1, 0x9), (3, 0x00E0, 0x8), (4, 0x0070, 0xC), (5, 0x0038, 0x4),
           (6, 0x001C, 0x6), (7, 0x000E, 0x2) ] : List (Phase × BitVec 16 × Coils)),
    pattern >>> e.1.toNat = e.2.1 ∧ romSequence e.1 = e.2.2

/-- R94: the five properties of the sequence, with the four pairs of the even phases; 'adjacent' is cyclic (conflict C3). -/
def Obligations.RomSequenceProperties : Prop :=
  (∀ p : Phase, p.toNat % 2 = 1 → coilCount (romSequence p) = 1) ∧
  (∀ p : Phase, p.toNat % 2 = 0 →
    ∃ i : Fin 4, ∀ j : Fin 4, (romSequence p).getLsbD j = (j == i || j == i + 1)) ∧
  (romSequence 0 = 0b0011 ∧ romSequence 2 = 0b1001 ∧ romSequence 4 = 0b1100 ∧ romSequence 6 = 0b0110) ∧
  (∀ p : Phase, coilCount (romSequence p &&& romSequence (p + 1)) = 1) ∧ romSequence 7 &&& romSequence 0 = 0b0010 ∧
  (∀ p q : Phase, romSequence p = romSequence q → p = q) ∧
  (∀ p : Phase, romSequence p ≠ 0 ∧ coilCount (romSequence p) < 3)

/-- R147: at the end of every cycle the coils show the ROM at the new phase, or nothing. -/
def Obligations.CoilsFollowTheMux : Prop :=
  ∀ s t : State, step s = .next t → t.coils = if t.en = true then romSequence t.phase else 0

/-- R148: the coils change only when `en` or `phase` changes, and that happens only at a stepping tick, which shows the new
pattern, or at a step that disarms, which shows 0: a reset, a terminal tick, a STOP, or a MOVE that leaves nothing pending. -/
def Obligations.CoilsChangeOnlyAtTickOrDisarm : Prop :=
  ∀ s t : State, s.OutputsLatched → step s = .next t → t.coils ≠ s.coils →
    (t.en ≠ s.en ∨ t.phase ≠ s.phase) ∧
    ((s.pins.rst = false ∧ gateFires s.pins.refTick s = true ∧ s.pending ≠ 0 ∧ t.coils = romSequence t.phase) ∨
      (t.coils = 0 ∧
        (s.pins.rst = true ∨ (gateFires s.pins.refTick s = true ∧ s.pending = 0) ∨
          (s.pins.cmdValid = true ∧ t.armed = false ∧ t.pending = 0 ∧
            (decode s.pins.cmdWord = .stop ∨ ∃ df delay count, decode s.pins.cmdWord = .move df delay count)))))

/-! ## The commands -/

/-- R104: a MOVE whose exact sum leaves the range sets `ovf` and writes nothing else. -/
def Obligations.MoveOverflowSetsOnlyOvf : Prop :=
  ∀ (s : State) (df : Bool) (delay : Nat) (count : Int),
    (s.pending.toInt + count < -2 ^ 31 ∨ 2 ^ 31 - 1 < s.pending.toInt + count) →
    exec (.move df delay count) s = .next { s with ovf := true }

/-- R105: MOVE with count 0 disarms when nothing is pending and otherwise changes nothing; by the invariants it has an effect
only in the terminal dwell. -/
def Obligations.MoveZeroOnlyEndsTheDwell : Prop :=
  ∀ (s : State) (df : Bool) (delay : Nat),
    (s.pending = 0 → exec (.move df delay 0) s = .next { s with armed := false, en := false, div := 0 }) ∧
    (s.pending ≠ 0 → exec (.move df delay 0) s = .next s) ∧
    (s.Inv → s.classOf ≠ some .terminalDwell → exec (.move df delay 0) s = .next s)

/-- A MOVE with count ≠ 0 that leaves `pending` ≠ 0 adds its count exactly, sets the period to 1000 with DF = 1 and to
max(500, delay) otherwise, arms and restarts the gate, and changes nothing else (R102, R103, R106). -/
def Obligations.MoveAddsAndRearms : Prop :=
  ∀ (s : State) (df : Bool) (delay : Nat) (count : Int), (Instr.move df delay count).WellFormed → count ≠ 0 →
    -2 ^ 31 ≤ s.pending.toInt + count → s.pending.toInt + count ≤ 2 ^ 31 - 1 → s.pending.toInt + count ≠ 0 →
    ∃ t, exec (.move df delay count) s = .next t ∧ t.pending.toInt = s.pending.toInt + count ∧
      t.period.toNat = (if df = true then 1000 else max 500 delay) ∧
      t = { s with pending := t.pending, period := t.period, armed := true, div := 0 }

/-- R107: a MOVE with count ≠ 0 that leaves `pending` = 0 disarms and turns the coils off in the same step; the period is still
written, `phase` keeps its value, and nothing else changes. -/
def Obligations.MoveToZeroDisarmsAtOnce : Prop :=
  ∀ (s : State) (df : Bool) (delay : Nat) (count : Int), (Instr.move df delay count).WellFormed → count ≠ 0 →
    s.pending.toInt + count = 0 →
    ∃ t, exec (.move df delay count) s = .next t ∧ t.period.toNat = (if df = true then 1000 else max 500 delay) ∧
      mux t.en t.phase = 0 ∧
      t = { s with pending := 0, period := t.period, armed := false, en := false, div := 0 }

/-- R108: a MOVE never writes `phase` and never turns the coils on; its only coil change is to all-off. -/
def Obligations.MoveNeverTurnsCoilsOn : Prop :=
  ∀ (s t : State) (df : Bool) (delay : Nat) (count : Int), exec (.move df delay count) s = .next t →
    t.phase = s.phase ∧ (t.en = true → s.en = true) ∧
    (mux t.en t.phase = mux s.en s.phase ∨ mux t.en t.phase = 0)

/-- R110: STOP responds with the old `pending`, cancels it, disarms and turns the coils off; `phase`, `period` and the flags
keep their values. -/
def Obligations.StopReturnsAndCancels : Prop :=
  ∀ s : State,
    exec .stop s = .next
      { s with rspValid := true, rspData := s.pending, pending := 0, armed := false, en := false, div := 0 } ∧
    ∀ t, exec .stop s = .next t → mux t.en t.phase = 0

/-- After a STOP, and after any cycles without a MOVE, a second STOP responds 0 and changes nothing else (R111). -/
def Obligations.SecondStopReturnsZero : Prop :=
  ∀ (s t : State) (ps : List Pins), exec .stop s = .next t →
    (∀ p ∈ ps, p.cmdValid = true → ∀ df delay count, decode p.cmdWord ≠ .move df delay count) →
    ∃ u, runCycles ps t = .next u ∧ exec .stop u = .next { u with rspValid := true, rspData := 0 }

/-- R112: STATUS responds with the status word, bit by bit, and writes no register. -/
def Obligations.StatusReportsTheState : Prop :=
  ∀ s : State, ∃ t, exec .status s = .next t ∧ t = { s with rspValid := true, rspData := t.rspData } ∧
    t.rspData.getLsbD 0 = decide (s.pending ≠ 0) ∧ t.rspData.getLsbD 1 = s.armed ∧ t.rspData.getLsbD 2 = s.en ∧
    t.rspData.extractLsb 5 3 = s.phase ∧ t.rspData.getLsbD 6 = s.ovf ∧ t.rspData.getLsbD 7 = s.ill ∧
    t.rspData.extractLsb 31 8 = 0

/-- R113: NOP changes nothing, and a cycle with a NOP does what the cycle without a command does. -/
def Obligations.NopChangesNothing : Prop :=
  (∀ s : State, exec .nop s = .next s) ∧
  ∀ (p : Pins) (s : State), (p.cmdWord.extractLsb 63 60).toNat = 0 →
    cycle { p with cmdValid := true } s = cycle { p with cmdValid := false } s

/-- R114: a reserved OP sets `ill` and changes nothing else, whatever the other bits of the word. -/
def Obligations.ReservedSetsOnlyIll : Prop :=
  (∀ (op : Nat) (s : State), exec (.reservedLow op) s = .next { s with ill := true }) ∧
  (∀ (op : Nat) (s : State), exec (.reservedHigh op) s = .next { s with ill := true }) ∧
  ∀ (w : CmdWord) (s : State), 4 ≤ (w.extractLsb 63 60).toNat → exec (decode w) s = .next { s with ill := true }

/-- R178: one command raises at most one error, a reserved OP raises IllegalCommand alone, and only MOVE can raise Overflow.
An erroneous command has no effect except its flag (R176). -/
def Obligations.OneErrorPerCommand : Prop :=
  ∀ (i : Instr) (s t : State), exec i s = .next t →
    (t.ovf = s.ovf ∨ t.ill = s.ill) ∧
    (t.ovf ≠ s.ovf → (∃ df delay count, i = .move df delay count) ∧ t = { s with ovf := true }) ∧
    (t.ill ≠ s.ill → ((∃ op, i = .reservedLow op) ∨ ∃ op, i = .reservedHigh op) ∧ t = { s with ill := true })

/-- FRAME of every command: none writes `phase`, the coil register or the inputs; `period` is written only by a MOVE with
count ≠ 0; the response port only by STOP and STATUS; `pending`, `armed`, `en` and `div` only by MOVE and STOP (R22, R31,
R102 to R114). -/
def Obligations.CommandsLeaveTheRestUnchanged : Prop :=
  ∀ (i : Instr) (s t : State), exec i s = .next t →
    t.phase = s.phase ∧ t.coils = s.coils ∧ t.inputs = s.inputs ∧ t.freeIndex = s.freeIndex ∧
    ((∀ df delay count, i = .move df delay count → count = 0) → t.period = s.period) ∧
    (i ≠ .stop → i ≠ .status → t.rspValid = s.rspValid ∧ t.rspData = s.rspData) ∧
    (i ≠ .stop → (∀ df delay count, i ≠ .move df delay count) →
      t.pending = s.pending ∧ t.armed = s.armed ∧ t.en = s.en ∧ t.div = s.div)

/-! ## The tick gate and the tick step -/

/-- R140 and R141: the gate counts strobes while armed, never wraps, and when the count reaches the period it fires, which
clears it and runs the tick step; it does nothing while disarmed, when `div` is 0 by the invariants. -/
def Obligations.GateCountsAndFires : Prop :=
  ∀ (r : Bool) (s : State),
    (s.armed = true → r = true → s.period.toNat ≤ s.div.toNat + 1 →
      gateFires r s = true ∧ gateAndTick r s = tick { s with div := 0 }) ∧
    (s.armed = true → r = true → s.div.toNat + 1 < s.period.toNat →
      gateFires r s = false ∧ (gateAndTick r s).div.toNat = s.div.toNat + 1 ∧
      gateAndTick r s = { s with div := (gateAndTick r s).div }) ∧
    (s.armed = false ∨ r = false → gateFires r s = false ∧ gateAndTick r s = s) ∧
    (s.Inv → s.armed = false → s.div = 0)

/-- R143: with `pending` ≠ 0 a tick moves `phase` one step in the direction of its sign, modulo 8, moves `pending` one unit
toward zero with no overflow, and turns the coils on; with `pending` = 0 it disarms and turns them off. -/
def Obligations.TickStepsTowardZero : Prop :=
  ∀ s : State,
    (s.pending ≠ 0 →
      ((tick s).phase.toNat : Int) = ((s.phase.toNat : Int) + Int.sign s.pending.toInt) % 8 ∧
      (tick s).pending.toInt = s.pending.toInt - Int.sign s.pending.toInt ∧
      tick s = { s with phase := (tick s).phase, pending := (tick s).pending, en := true }) ∧
    (s.pending = 0 → tick s = { s with armed := false, en := false, div := 0 })

/-- The first tick after an arming comes on the `period`-th strobe, not before it and not after it; until then the gate only
counts (R142). -/
def Obligations.TickComesOnThePeriodthStrobe : Prop :=
  ∀ (s : State) (ps : List Pins) (p : Pins), s.armed = true → s.div = 0 → 500 ≤ s.period.toNat → quiet ps = true →
    strobes ps < s.period.toNat →
    ∃ t, runCycles ps s = .next t ∧ t.div.toNat = strobes ps ∧
      t.phase = s.phase ∧ t.pending = s.pending ∧ t.en = s.en ∧ t.armed = true ∧ t.period = s.period ∧
      (gateFires p.refTick t = true ↔ p.refTick = true ∧ strobes ps + 1 = s.period.toNat)

/-! ## One clock cycle -/

/-- R150: a step is one cycle of the inputs on the ports. A reset cycle applies RESET alone; any other applies the gate and the
tick step whole, then the command, decoded, to their result, and the mux last. -/
def Obligations.StepRunsTheDecodedCommand : Prop :=
  ∀ s : State,
    (s.pins.rst = true → step s = .next { applyReset s.takePins with coils := 0 }) ∧
    (s.pins.rst = false → s.pins.cmdValid = false → ∀ u, u = gateAndTick s.pins.refTick (clearResponse s.takePins) →
      step s = .next { u with coils := if u.en = true then romSequence u.phase else 0 }) ∧
    (s.pins.rst = false → s.pins.cmdValid = true →
      ∀ t, exec (decode s.pins.cmdWord) (gateAndTick s.pins.refTick (clearResponse s.takePins)) = .next t →
        step s = .next { t with coils := if t.en = true then romSequence t.phase else 0 })

/-- A word placed with withFetchWord is the command the next step runs, with no tick step before it (R100; the placing is the
model's, logs 1 and 3). -/
def Obligations.PlacedWordIsTheNextCommand : Prop :=
  ∀ (s t : State) (w : CmdWord), exec (decode w) (clearResponse { s with inputs := s.inputs.tail }) = .next t →
    step (s.withFetchWord 64 w.toNat) = .next { t with coils := if t.en = true then romSequence t.phase else 0 }

/-- R115: a cycle without a command ignores `cmd_word`, and only its tick step changes registers. -/
def Obligations.NoCommandOnlyTicks : Prop :=
  ∀ (p : Pins) (s : State), p.rst = false → p.cmdValid = false →
    (∀ w, cycle { p with cmdWord := w } s = cycle p s) ∧
    (gateFires p.refTick s = false → ∃ t, cycle p s = .next t ∧
      t = { s with div := t.div, rspValid := false, rspData := 0, coils := if s.en = true then romSequence s.phase else 0 })

/-- R31: a response is sent exactly by STOP and STATUS, in the cycle after theirs, with the value their rules give it (`pending`
and the status word as the tick step of their cycle left them), and `rsp_data` is 0 without one. -/
def Obligations.OnlyStopAndStatusRespond : Prop :=
  ∀ s t : State, step s = .next t →
    (t.rspValid = true ↔ s.pins.rst = false ∧ s.pins.cmdValid = true ∧
      ((s.pins.cmdWord.extractLsb 63 60).toNat = 2 ∨ (s.pins.cmdWord.extractLsb 63 60).toNat = 3)) ∧
    (t.rspValid = false → t.rspData = 0) ∧
    (t.rspValid = true → ∀ u, u = gateAndTick s.pins.refTick s.takePins →
      ((s.pins.cmdWord.extractLsb 63 60).toNat = 2 → t.rspData = u.pending) ∧
      ((s.pins.cmdWord.extractLsb 63 60).toNat = 3 → t.rspData = statusWord u))

/-- R200: a reset cycle writes every register its reset value, whatever the state before it and whatever else its inputs say;
no response is sent and the coils go off. -/
def Obligations.ResetWritesEveryRegister : Prop :=
  ∀ s : State, s.pins.rst = true →
    step s = .next { phase := 0, pending := 0, period := 1000, div := 0, armed := false, en := false, ovf := false,
                     ill := false, rspValid := false, rspData := 0, coils := 0, inputs := s.takePins.inputs,
                     freeIndex := s.takePins.freeIndex }

/-- R23: `phase` changes only at a stepping tick, by +1 or -1 modulo 8 in the direction of `pending`, and at reset. -/
def Obligations.PhaseMovesOnlyByTicks : Prop :=
  ∀ s t : State, step s = .next t →
    (s.pins.rst = true → t.phase = 0) ∧
    (s.pins.rst = false → gateFires s.pins.refTick s = true → 0 < s.pending.toInt → t.phase = s.phase + 1) ∧
    (s.pins.rst = false → gateFires s.pins.refTick s = true → s.pending.toInt < 0 → t.phase = s.phase - 1) ∧
    (s.pins.rst = false → (gateFires s.pins.refTick s = false ∨ s.pending = 0) → t.phase = s.phase)

/-- R24: exactly a MOVE that is accepted, a stepping tick, STOP and reset write `pending`, and what they write. -/
def Obligations.PendingHasFourWriters : Prop :=
  ∀ s t : State, step s = .next t →
    (s.pins.rst = true → t.pending = 0) ∧
    (s.pins.rst = false → ∀ m : Int,
      m = (if gateFires s.pins.refTick s = true then s.pending.toInt - Int.sign s.pending.toInt else s.pending.toInt) →
      t.pending.toInt =
        if s.pins.cmdValid = true then
          match decode s.pins.cmdWord with
          | .move _ _ count => if -2 ^ 31 ≤ m + count ∧ m + count ≤ 2 ^ 31 - 1 then m + count else m
          | .stop => 0
          | _ => m
        else m)

/-- `period` is written only by reset and by an accepted MOVE, one with count ≠ 0 whose sum, on the `pending` that the tick left,
is in range; and every such MOVE writes it (R25, R35, R103). -/
def Obligations.PeriodIsWrittenOnlyByMove : Prop :=
  ∀ s t : State, step s = .next t →
    (s.pins.rst = true → t.period = 1000) ∧
    (s.pins.rst = false → ∀ m : Int,
      m = (if gateFires s.pins.refTick s = true then s.pending.toInt - Int.sign s.pending.toInt else s.pending.toInt) →
      (∀ df delay count, s.pins.cmdValid = true → decode s.pins.cmdWord = .move df delay count → count ≠ 0 →
        -2 ^ 31 ≤ m + count → m + count ≤ 2 ^ 31 - 1 → t.period.toNat = if df = true then 1000 else max 500 delay) ∧
      (t.period ≠ s.period → ∃ df delay count, s.pins.cmdValid = true ∧ decode s.pins.cmdWord = .move df delay count ∧
        count ≠ 0 ∧ -2 ^ 31 ≤ m + count ∧ m + count ≤ 2 ^ 31 - 1))

/-- A step that sets `armed` to 0 sets `en` to 0 with it, and only a stepping tick sets `en` to 1 (R28). -/
def Obligations.CoilsGoOnOnlyAtSteppingTicks : Prop :=
  ∀ s t : State, step s = .next t →
    (s.armed = true → t.armed = false → t.en = false ∧ t.coils = 0) ∧
    (s.en = false → t.en = true →
      s.pins.rst = false ∧ gateFires s.pins.refTick s = true ∧ s.pending ≠ 0 ∧ t.coils = romSequence t.phase)

/-- The sticky flags: reset clears both; in any other cycle `ill` gains exactly a reserved OP and `ovf` exactly a MOVE whose
sum, on the `pending` that the tick left, leaves the range; neither is ever cleared (R29, R171, R172, R177). -/
def Obligations.FlagsStickUntilReset : Prop :=
  ∀ s t : State, step s = .next t →
    (s.pins.rst = true → t.ovf = false ∧ t.ill = false) ∧
    (s.pins.rst = false →
      (t.ill = true ↔ s.ill = true ∨ (s.pins.cmdValid = true ∧ 4 ≤ (s.pins.cmdWord.extractLsb 63 60).toNat)) ∧
      ∀ m : Int,
        m = (if gateFires s.pins.refTick s = true then s.pending.toInt - Int.sign s.pending.toInt else s.pending.toInt) →
        (t.ovf = true ↔ s.ovf = true ∨ (s.pins.cmdValid = true ∧ ∃ df delay count,
          decode s.pins.cmdWord = .move df delay count ∧ (m + count < -2 ^ 31 ∨ 2 ^ 31 - 1 < m + count))))

/-- The error flags steer nothing: two states that differ only in them step alike, but for the flags themselves and bits 7:6 of
a response (R29, R34). -/
def Obligations.ErrorFlagsSteerNothing : Prop :=
  ∀ (s t : State) (a b : Bool), step s = .next t →
    ∃ t', step { s with ovf := a, ill := b } = .next t' ∧
      t' = { t with ovf := t'.ovf, ill := t'.ill, rspData := t'.rspData } ∧
      t'.rspData.extractLsb 5 0 = t.rspData.extractLsb 5 0 ∧ t'.rspData.extractLsb 31 8 = t.rspData.extractLsb 31 8 ∧
      (¬ (s.pins.cmdValid = true ∧ decode s.pins.cmdWord = .status) → t'.rspData = t.rspData)

/-- Every command and every step goes on: no command blocks, waits or stops the block (R100, R176). -/
def Obligations.EveryCommandAndStepGoesOn : Prop :=
  (∀ (i : Instr) (s : State), ∃ t, exec i s = .next t) ∧ ∀ s : State, ∃ t, step s = .next t

/-- The steps of a state with scheduled inputs are the cycles with those inputs (R150; the schedule is the model's, log 1). -/
def Obligations.RunFollowsTheInputSchedule : Prop :=
  ∀ (ps rest : List Pins) (s : State),
    Host.Core.run Sys2Proof.core ps.length { s with inputs := ps ++ rest } = runCycles ps { s with inputs := rest }

/-! ## Invariants and state classes -/

/-- The state right after reset meets the invariants, has its outputs latched, and is Idle (R36, R201). -/
def Obligations.ResetStateMeetsTheInvariants : Prop :=
  State.reset.Inv ∧ State.reset.OutputsLatched ∧ State.reset.classOf = some .idle

/-- R36: the invariants hold after a reset cycle from any state whatever, and every cycle keeps them. -/
def Obligations.EveryCycleKeepsTheInvariants : Prop :=
  ∀ s t : State, s.Inv ∨ s.pins.rst = true → step s = .next t → t.Inv

/-- After any cycle from any state the output registers hold the mux's value, and 0 without a response (R31, R32). -/
def Obligations.EveryCycleLatchesTheOutputs : Prop :=
  ∀ s t : State, step s = .next t → t.OutputsLatched

/-- R37: a state that meets the invariants is in exactly one of the four classes, with the coils of that class. -/
def Obligations.StatesFallIntoFourClasses : Prop :=
  ∀ s : State, s.Inv → s.OutputsLatched →
    (s.classOf = some .idle ∧ s.armed = false ∧ s.en = false ∧ s.pending = 0 ∧ s.coils = 0) ∨
    (s.classOf = some .armedNoStep ∧ s.armed = true ∧ s.en = false ∧ s.pending ≠ 0 ∧ s.coils = 0) ∨
    (s.classOf = some .stepping ∧ s.armed = true ∧ s.en = true ∧ s.pending ≠ 0 ∧ s.coils = romSequence s.phase) ∨
    (s.classOf = some .terminalDwell ∧ s.armed = true ∧ s.en = true ∧ s.pending = 0 ∧ s.coils = romSequence s.phase)

/-- R152: the transition table of the state machine. -/
def Obligations.ClassTransitionsFollowTheTable : Prop :=
  ∀ (s t : State) (e : Event), s.Inv → applyEvent e s = some t →
    t.classOf =
      match e with
      | .reset => some .idle
      | .tick =>
        if s.classOf = some .terminalDwell then some .idle
        else if s.pending.toInt.natAbs = 1 then some .terminalDwell else some .stepping
      | .cmd w =>
        match decode w with
        | .move _ _ count =>
          if s.pending.toInt + count < -2 ^ 31 ∨ 2 ^ 31 - 1 < s.pending.toInt + count then s.classOf
          else if count = 0 then (if s.classOf = some .terminalDwell then some .idle else s.classOf)
          else if s.pending.toInt + count = 0 then some .idle
          else if s.classOf = some .idle ∨ s.classOf = some .armedNoStep then some .armedNoStep
          else some .stepping
        | .stop => some .idle
        | _ => s.classOf

/-! ## Laws of whole runs -/

/-- MOVEs that all fit, with no tick and no STOP among them, add up exactly (R57, R116). -/
def Obligations.MovesAccumulate : Prop :=
  ∀ (ms : List (Bool × Nat × Int)) (s : State),
    (∀ k, k ≤ ms.length → -2 ^ 31 ≤ s.pending.toInt + ((ms.take k).map fun m => m.2.2).sum ∧
      s.pending.toInt + ((ms.take k).map fun m => m.2.2).sum ≤ 2 ^ 31 - 1) →
    ∃ t, runCommands (ms.map fun m => .move m.1 m.2.1 m.2.2) s = .next t ∧
      t.pending.toInt = s.pending.toInt + (ms.map fun m => m.2.2).sum ∧ t.phase = s.phase ∧ t.ovf = s.ovf ∧ t.ill = s.ill

/-- R153: over any run of events without a reset the displacement (phase + pending) mod 8 gains each accepted count and loses
what each STOP returns; a reset sets it to 0. -/
def Obligations.DisplacementLaw : Prop :=
  (∀ (es : List Event) (s t : State), Event.reset ∉ es → runEvents es s = some t →
    t.displacement = (s.displacement + netContribution es s) % 8) ∧
  ∀ s t : State, applyEvent .reset s = some t → t.displacement = 0

/-- From an armed state with `pending` = P, |P| ticks step the phase through phase + k·sign(P) and show each pattern, and one
more tick, the terminal one, leaves the block Idle at phase + P (R145, R154). -/
def Obligations.TicksRunToIdle : Prop :=
  ∀ s : State, s.armed = true →
    (∀ k : Nat, 1 ≤ k → k ≤ s.pending.toInt.natAbs →
      ∃ u, runEvents (List.replicate k .tick) s = some u ∧ u.armed = true ∧ u.en = true ∧
        u.pending.toInt = s.pending.toInt - k * Int.sign s.pending.toInt ∧
        (u.phase.toNat : Int) = (s.phase.toNat + k * Int.sign s.pending.toInt) % 8 ∧ u.coils = romSequence u.phase) ∧
    ∃ t, runEvents (List.replicate (s.pending.toInt.natAbs + 1) .tick) s = some t ∧ t.classOf = some .idle ∧
      t.coils = 0 ∧ (t.phase.toNat : Int) = (s.phase.toNat + s.pending.toInt) % 8

/-- Timed completion: with no command and no reset, an armed block is Idle at phase + P once (|P| + 1)·period - div strobes have
come, and is still armed before that (R154). -/
def Obligations.MotionEndsOnTime : Prop :=
  ∀ (ps : List Pins) (s : State), s.Inv → s.armed = true → quiet ps = true →
    ∃ t, runCycles ps s = .next t ∧
      ((s.pending.toInt.natAbs + 1) * s.period.toNat ≤ s.div.toNat + strobes ps →
        t.armed = false ∧ t.en = false ∧ t.pending = 0 ∧ t.coils = 0 ∧
        (t.phase.toNat : Int) = (s.phase.toNat + s.pending.toInt) % 8) ∧
      (s.div.toNat + strobes ps < (s.pending.toInt.natAbs + 1) * s.period.toNat → t.armed = true)

/-- Re-arm starvation: MOVEs with count ≠ 0, of either direction, with any delays and from any state whose gate does not fire in
the first of their cycles, that each leave `pending` ≠ 0 and come sooner than every `period` strobes, keep any tick from firing.
`phase` and `en` stay as they were, the coils show the mux of them, and `pending` gains the counts. NOP, STATUS and MOVE 0
between them do not restart the divider (R206), and neither does a reserved OP (R114). -/
def Obligations.RearmingStarvesTheGate : Prop :=
  ∀ (ms : List MoveRound) (s : State), ms ≠ [] → gateFires true s = false →
    (∀ m ∈ ms, m.gap.all keepsSchedule = true ∧ ∃ df delay count, decode m.word = .move df delay count ∧ count ≠ 0 ∧
      strobes m.gap + 1 < if df = true then 1000 else max 500 delay) →
    (∀ k, 1 ≤ k → k ≤ ms.length → s.pending.toInt + roundCounts (ms.take k) ≠ 0 ∧
      -2 ^ 31 ≤ s.pending.toInt + roundCounts (ms.take k) ∧ s.pending.toInt + roundCounts (ms.take k) ≤ 2 ^ 31 - 1) →
    ∃ t, runCycles (ms.map MoveRound.cycles).flatten s = .next t ∧ t.phase = s.phase ∧ t.en = s.en ∧
      t.coils = (if s.en = true then romSequence s.phase else 0) ∧ t.armed = true ∧
      t.pending.toInt = s.pending.toInt + roundCounts ms

/-- Every run of the block is a run of the untimed abstraction: the events of its cycles, each a Reset or at most one Tick and
then at most one Cmd, are enabled one after another and leave the same registers (R151). -/
def Obligations.EveryRunIsAnEventRun : Prop :=
  ∀ (ps : List Pins) (s t : State), runCycles ps s = .next t →
    ∃ u, runEvents (eventsOf ps s) s = some u ∧ u.untimed = t.untimed

/-- The untimed abstraction reads nothing of the clock: an event does the same to states with the same untimed part (R151). -/
def Obligations.EventsIgnoreTheClock : Prop :=
  ∀ (e : Event) (s s' : State), s.untimed = s'.untimed →
    (applyEvent e s).map State.untimed = (applyEvent e s').map State.untimed

/-! ## Errors as faults, building an instance, several instances -/

/-- The fault model stops exactly where an error is recorded: from a state without one, a cycle ends in IllegalCommand (id 4)
exactly for a reserved OP, in Overflow (id 3) exactly for a MOVE that sets `ovf`, and otherwise as the block's own step. The
choice that `step` itself goes on is the model's (log 4; R170, R171, R172). -/
def Obligations.FaultModelStopsAtRecordedErrors : Prop :=
  Fault.illegalCommand.id = 4 ∧ Fault.overflow.id = 3 ∧
  ∀ s t : State, s.ovf = false → s.ill = false → step s = .next t →
    (strictStep s = .fault .illegalCommand ↔
      s.pins.rst = false ∧ s.pins.cmdValid = true ∧ 4 ≤ (s.pins.cmdWord.extractLsb 63 60).toNat) ∧
    (strictStep s = .fault .overflow ↔ t.ovf = true) ∧
    (strictStep s = .next t ↔ t.ovf = false ∧ t.ill = false)

/-- R173: an instance is built, in the state after reset, exactly when its PIN_MAP is injective and it has a 1 MHz reference;
otherwise the configuration is refused with ConfigError. -/
def Obligations.ConstructRefusesBadBindings : Prop :=
  ∀ b : InstanceParams,
    ((∀ i j : Fin 4, b.pinMap[i] = b.pinMap[j] → i = j) ∧ b.hasRefTick = true → construct b = .next State.reset) ∧
    (¬ ((∀ i j : Fin 4, b.pinMap[i] = b.pinMap[j] → i = j) ∧ b.hasRefTick = true) →
      construct b = .refused .configError)

/-- A clock edge of one instance steps that instance and leaves every other one as it was (R185). -/
def Obligations.InstancesShareNothing : Prop :=
  ∀ (k : Nat) (ps : Platform) (s : State), ps[k]? = some s →
    ∃ t qs, step s = .next t ∧ stepInstance k ps = some qs ∧ qs[k]? = some t ∧ qs.length = ps.length ∧
      ∀ j, j ≠ k → qs[j]? = ps[j]?

/-- The physical pin that a bound instance's PIN_MAP gives coil i carries coil i, and no other pin is driven (R30, R203). -/
def Obligations.PinsCarryTheirCoils : Prop :=
  ∀ (b : InstanceParams) (s : State), bindable b = true →
    (∀ i : Fin 4, pinLevel b s b.pinMap[i] = some (s.coils.getLsbD i)) ∧
    ∀ n : Nat, (∀ i : Fin 4, b.pinMap[i] ≠ n) → pinLevel b s n = none
end

