-- ==== Sys2Proof/Laws/State.lean ====
section
/-! SUPPORT. One lemma for each field of each update of the state, so that no later proof unfolds a record update. -/

namespace Sys2Proof.Machine

section respondFields
variable (v : RspWord) (s : State)

@[simp] theorem respond_phase : (respond v s).phase = s.phase := by rfl
@[simp] theorem respond_pending : (respond v s).pending = s.pending := by rfl
@[simp] theorem respond_period : (respond v s).period = s.period := by rfl
@[simp] theorem respond_div : (respond v s).div = s.div := by rfl
@[simp] theorem respond_armed : (respond v s).armed = s.armed := by rfl
@[simp] theorem respond_en : (respond v s).en = s.en := by rfl
@[simp] theorem respond_ovf : (respond v s).ovf = s.ovf := by rfl
@[simp] theorem respond_ill : (respond v s).ill = s.ill := by rfl
@[simp] theorem respond_rspValid : (respond v s).rspValid = true := by rfl
@[simp] theorem respond_rspData : (respond v s).rspData = v := by rfl
@[simp] theorem respond_coils : (respond v s).coils = s.coils := by rfl
@[simp] theorem respond_inputs : (respond v s).inputs = s.inputs := by rfl
@[simp] theorem respond_freeIndex : (respond v s).freeIndex = s.freeIndex := by rfl

end respondFields

section clearResponseFields
variable (s : State)

@[simp] theorem clearResponse_phase : (clearResponse s).phase = s.phase := by rfl
@[simp] theorem clearResponse_pending : (clearResponse s).pending = s.pending := by rfl
@[simp] theorem clearResponse_period : (clearResponse s).period = s.period := by rfl
@[simp] theorem clearResponse_div : (clearResponse s).div = s.div := by rfl
@[simp] theorem clearResponse_armed : (clearResponse s).armed = s.armed := by rfl
@[simp] theorem clearResponse_en : (clearResponse s).en = s.en := by rfl
@[simp] theorem clearResponse_ovf : (clearResponse s).ovf = s.ovf := by rfl
@[simp] theorem clearResponse_ill : (clearResponse s).ill = s.ill := by rfl
@[simp] theorem clearResponse_rspValid : (clearResponse s).rspValid = false := by rfl
@[simp] theorem clearResponse_rspData : (clearResponse s).rspData = 0 := by rfl
@[simp] theorem clearResponse_coils : (clearResponse s).coils = s.coils := by rfl
@[simp] theorem clearResponse_inputs : (clearResponse s).inputs = s.inputs := by rfl
@[simp] theorem clearResponse_freeIndex : (clearResponse s).freeIndex = s.freeIndex := by rfl

end clearResponseFields

section rearmFields
variable (s : State)

@[simp] theorem rearm_phase : (rearm s).phase = s.phase := by rfl
@[simp] theorem rearm_pending : (rearm s).pending = s.pending := by rfl
@[simp] theorem rearm_period : (rearm s).period = s.period := by rfl
@[simp] theorem rearm_div : (rearm s).div = 0 := by rfl
@[simp] theorem rearm_armed : (rearm s).armed = true := by rfl
@[simp] theorem rearm_en : (rearm s).en = s.en := by rfl
@[simp] theorem rearm_ovf : (rearm s).ovf = s.ovf := by rfl
@[simp] theorem rearm_ill : (rearm s).ill = s.ill := by rfl
@[simp] theorem rearm_rspValid : (rearm s).rspValid = s.rspValid := by rfl
@[simp] theorem rearm_rspData : (rearm s).rspData = s.rspData := by rfl
@[simp] theorem rearm_coils : (rearm s).coils = s.coils := by rfl
@[simp] theorem rearm_inputs : (rearm s).inputs = s.inputs := by rfl
@[simp] theorem rearm_freeIndex : (rearm s).freeIndex = s.freeIndex := by rfl

end rearmFields

section disarmFields
variable (s : State)

@[simp] theorem disarm_phase : (disarm s).phase = s.phase := by rfl
@[simp] theorem disarm_pending : (disarm s).pending = s.pending := by rfl
@[simp] theorem disarm_period : (disarm s).period = s.period := by rfl
@[simp] theorem disarm_div : (disarm s).div = 0 := by rfl
@[simp] theorem disarm_armed : (disarm s).armed = false := by rfl
@[simp] theorem disarm_en : (disarm s).en = false := by rfl
@[simp] theorem disarm_ovf : (disarm s).ovf = s.ovf := by rfl
@[simp] theorem disarm_ill : (disarm s).ill = s.ill := by rfl
@[simp] theorem disarm_rspValid : (disarm s).rspValid = s.rspValid := by rfl
@[simp] theorem disarm_rspData : (disarm s).rspData = s.rspData := by rfl
@[simp] theorem disarm_coils : (disarm s).coils = s.coils := by rfl
@[simp] theorem disarm_inputs : (disarm s).inputs = s.inputs := by rfl
@[simp] theorem disarm_freeIndex : (disarm s).freeIndex = s.freeIndex := by rfl

end disarmFields

section raiseOverflowFields
variable (s : State)

@[simp] theorem raiseOverflow_phase : (raiseError .overflow s).phase = s.phase := by rfl
@[simp] theorem raiseOverflow_pending : (raiseError .overflow s).pending = s.pending := by rfl
@[simp] theorem raiseOverflow_period : (raiseError .overflow s).period = s.period := by rfl
@[simp] theorem raiseOverflow_div : (raiseError .overflow s).div = s.div := by rfl
@[simp] theorem raiseOverflow_armed : (raiseError .overflow s).armed = s.armed := by rfl
@[simp] theorem raiseOverflow_en : (raiseError .overflow s).en = s.en := by rfl
@[simp] theorem raiseOverflow_ovf : (raiseError .overflow s).ovf = true := by rfl
@[simp] theorem raiseOverflow_ill : (raiseError .overflow s).ill = s.ill := by rfl
@[simp] theorem raiseOverflow_rspValid : (raiseError .overflow s).rspValid = s.rspValid := by rfl
@[simp] theorem raiseOverflow_rspData : (raiseError .overflow s).rspData = s.rspData := by rfl
@[simp] theorem raiseOverflow_coils : (raiseError .overflow s).coils = s.coils := by rfl
@[simp] theorem raiseOverflow_inputs : (raiseError .overflow s).inputs = s.inputs := by rfl
@[simp] theorem raiseOverflow_freeIndex : (raiseError .overflow s).freeIndex = s.freeIndex := by rfl

end raiseOverflowFields

section raiseIllegalFields
variable (s : State)

@[simp] theorem raiseIllegal_phase : (raiseError .illegalCommand s).phase = s.phase := by rfl
@[simp] theorem raiseIllegal_pending : (raiseError .illegalCommand s).pending = s.pending := by rfl
@[simp] theorem raiseIllegal_period : (raiseError .illegalCommand s).period = s.period := by rfl
@[simp] theorem raiseIllegal_div : (raiseError .illegalCommand s).div = s.div := by rfl
@[simp] theorem raiseIllegal_armed : (raiseError .illegalCommand s).armed = s.armed := by rfl
@[simp] theorem raiseIllegal_en : (raiseError .illegalCommand s).en = s.en := by rfl
@[simp] theorem raiseIllegal_ovf : (raiseError .illegalCommand s).ovf = s.ovf := by rfl
@[simp] theorem raiseIllegal_ill : (raiseError .illegalCommand s).ill = true := by rfl
@[simp] theorem raiseIllegal_rspValid : (raiseError .illegalCommand s).rspValid = s.rspValid := by rfl
@[simp] theorem raiseIllegal_rspData : (raiseError .illegalCommand s).rspData = s.rspData := by rfl
@[simp] theorem raiseIllegal_coils : (raiseError .illegalCommand s).coils = s.coils := by rfl
@[simp] theorem raiseIllegal_inputs : (raiseError .illegalCommand s).inputs = s.inputs := by rfl
@[simp] theorem raiseIllegal_freeIndex : (raiseError .illegalCommand s).freeIndex = s.freeIndex := by rfl

end raiseIllegalFields

section applyResetFields
variable (s : State)

@[simp] theorem applyReset_phase : (applyReset s).phase = 0 := by rfl
@[simp] theorem applyReset_pending : (applyReset s).pending = 0 := by rfl
@[simp] theorem applyReset_period : (applyReset s).period = 1000 := by rfl
@[simp] theorem applyReset_div : (applyReset s).div = 0 := by rfl
@[simp] theorem applyReset_armed : (applyReset s).armed = false := by rfl
@[simp] theorem applyReset_en : (applyReset s).en = false := by rfl
@[simp] theorem applyReset_ovf : (applyReset s).ovf = false := by rfl
@[simp] theorem applyReset_ill : (applyReset s).ill = false := by rfl
@[simp] theorem applyReset_rspValid : (applyReset s).rspValid = false := by rfl
@[simp] theorem applyReset_rspData : (applyReset s).rspData = 0 := by rfl
@[simp] theorem applyReset_coils : (applyReset s).coils = s.coils := by rfl
@[simp] theorem applyReset_inputs : (applyReset s).inputs = s.inputs := by rfl
@[simp] theorem applyReset_freeIndex : (applyReset s).freeIndex = s.freeIndex := by rfl

end applyResetFields

section latchCoilsFields
variable (s : State)

@[simp] theorem latchCoils_phase : (latchCoils s).phase = s.phase := by rfl
@[simp] theorem latchCoils_pending : (latchCoils s).pending = s.pending := by rfl
@[simp] theorem latchCoils_period : (latchCoils s).period = s.period := by rfl
@[simp] theorem latchCoils_div : (latchCoils s).div = s.div := by rfl
@[simp] theorem latchCoils_armed : (latchCoils s).armed = s.armed := by rfl
@[simp] theorem latchCoils_en : (latchCoils s).en = s.en := by rfl
@[simp] theorem latchCoils_ovf : (latchCoils s).ovf = s.ovf := by rfl
@[simp] theorem latchCoils_ill : (latchCoils s).ill = s.ill := by rfl
@[simp] theorem latchCoils_rspValid : (latchCoils s).rspValid = s.rspValid := by rfl
@[simp] theorem latchCoils_rspData : (latchCoils s).rspData = s.rspData := by rfl
@[simp] theorem latchCoils_coils : (latchCoils s).coils = mux s.en s.phase := by rfl
@[simp] theorem latchCoils_inputs : (latchCoils s).inputs = s.inputs := by rfl
@[simp] theorem latchCoils_freeIndex : (latchCoils s).freeIndex = s.freeIndex := by rfl

end latchCoilsFields

section stepMotorFields
variable (s : State)

@[simp] theorem stepMotor_phase : (stepMotor s).phase = BitVec.ofInt 3 (s.phase.toNat + direction s.pending) := by rfl
@[simp] theorem stepMotor_pending : (stepMotor s).pending = stepsOf (s.pending.toInt - direction s.pending) := by rfl
@[simp] theorem stepMotor_period : (stepMotor s).period = s.period := by rfl
@[simp] theorem stepMotor_div : (stepMotor s).div = s.div := by rfl
@[simp] theorem stepMotor_armed : (stepMotor s).armed = s.armed := by rfl
@[simp] theorem stepMotor_en : (stepMotor s).en = true := by rfl
@[simp] theorem stepMotor_ovf : (stepMotor s).ovf = s.ovf := by rfl
@[simp] theorem stepMotor_ill : (stepMotor s).ill = s.ill := by rfl
@[simp] theorem stepMotor_rspValid : (stepMotor s).rspValid = s.rspValid := by rfl
@[simp] theorem stepMotor_rspData : (stepMotor s).rspData = s.rspData := by rfl
@[simp] theorem stepMotor_coils : (stepMotor s).coils = s.coils := by rfl
@[simp] theorem stepMotor_inputs : (stepMotor s).inputs = s.inputs := by rfl
@[simp] theorem stepMotor_freeIndex : (stepMotor s).freeIndex = s.freeIndex := by rfl

end stepMotorFields

section takePinsFields
variable (s : State)

@[simp] theorem takePins_phase : s.takePins.phase = s.phase := by
  unfold State.takePins; split <;> rfl

@[simp] theorem takePins_pending : s.takePins.pending = s.pending := by
  unfold State.takePins; split <;> rfl

@[simp] theorem takePins_period : s.takePins.period = s.period := by
  unfold State.takePins; split <;> rfl

@[simp] theorem takePins_div : s.takePins.div = s.div := by
  unfold State.takePins; split <;> rfl

@[simp] theorem takePins_armed : s.takePins.armed = s.armed := by
  unfold State.takePins; split <;> rfl

@[simp] theorem takePins_en : s.takePins.en = s.en := by
  unfold State.takePins; split <;> rfl

@[simp] theorem takePins_ovf : s.takePins.ovf = s.ovf := by
  unfold State.takePins; split <;> rfl

@[simp] theorem takePins_ill : s.takePins.ill = s.ill := by
  unfold State.takePins; split <;> rfl

@[simp] theorem takePins_rspValid : s.takePins.rspValid = s.rspValid := by
  unfold State.takePins; split <;> rfl

@[simp] theorem takePins_rspData : s.takePins.rspData = s.rspData := by
  unfold State.takePins; split <;> rfl

@[simp] theorem takePins_coils : s.takePins.coils = s.coils := by
  unfold State.takePins; split <;> rfl

end takePinsFields

/-- Placing inputs puts them on the ports of the coming cycle. -/
@[simp] theorem placePins_pins (p : Pins) (s : State) : (s.placePins p).pins = p := by rfl

/-- Taking placed inputs leaves the schedule after them. -/
@[simp] theorem placePins_takePins (p : Pins) (s : State) :
    (s.placePins p).takePins = { s with inputs := s.inputs.tail } := by rfl

@[simp] theorem nextOf_next (s : State) : nextOf (.next s) = some s := by rfl

@[simp] theorem andThen_next (s : State) (f : State → Host.Outcome State Fault Refusal) : andThen (.next s) f = f s := by rfl

@[simp] theorem reset_phase : State.reset.phase = 0 := by rfl
@[simp] theorem reset_pending : State.reset.pending = 0 := by rfl
@[simp] theorem reset_period : State.reset.period = 1000 := by rfl
@[simp] theorem reset_div : State.reset.div = 0 := by rfl
@[simp] theorem reset_armed : State.reset.armed = false := by rfl
@[simp] theorem reset_en : State.reset.en = false := by rfl
@[simp] theorem reset_ovf : State.reset.ovf = false := by rfl
@[simp] theorem reset_ill : State.reset.ill = false := by rfl
@[simp] theorem reset_rspValid : State.reset.rspValid = false := by rfl
@[simp] theorem reset_rspData : State.reset.rspData = 0 := by rfl
@[simp] theorem reset_coils : State.reset.coils = 0 := by rfl
@[simp] theorem reset_inputs : State.reset.inputs = [] := by rfl
@[simp] theorem reset_freeIndex : State.reset.freeIndex = 0 := by rfl

end Sys2Proof.Machine
end

