-- ==== Sys2Proof/Laws/Ops.lean ====
section
/-! SUPPORT. What each shared operation does, said once: the arithmetic of MOVE, the gate, the tick step and the mux. -/

namespace Sys2Proof.Machine

@[simp] theorem fitsPending_iff (x : Int) : fitsPending x = true ↔ -2 ^ 31 ≤ x ∧ x ≤ 2 ^ 31 - 1 := by
  simp [fitsPending]

/-- `pending` always holds a value of its own range (R22). -/
theorem pending_range (p : Steps) : -2 ^ 31 ≤ p.toInt ∧ p.toInt ≤ 2 ^ 31 - 1 := by
  have h1 := BitVec.le_toInt p
  have h2 := BitVec.toInt_lt (x := p)
  omega

/-- Narrowing a sum that fits loses nothing (R102). -/
theorem toInt_stepsOf {x : Int} (h : -2 ^ 31 ≤ x) (h' : x ≤ 2 ^ 31 - 1) : (stepsOf x).toInt = x := by
  rw [stepsOf, BitVec.toInt_ofInt]
  exact Int.bmod_eq_of_le (by omega) (by omega)

/-- A word is 0 exactly when its value is (R33). -/
theorem pending_eq_zero_iff (p : Steps) : p = 0 ↔ p.toInt = 0 := by
  constructor
  · rintro rfl; rfl
  · intro h
    exact BitVec.eq_of_toInt_eq (by simpa using h)

/-- The register `period` holds the effective period exactly (R103). -/
theorem effectivePeriod_toNat {delay : Nat} (h : delay < 2 ^ 27) (df : Bool) :
    (effectivePeriod df delay).toNat = if df then 1000 else max 500 delay := by
  unfold effectivePeriod effectiveTicks defaultDelay minPeriod
  cases df
  · simp; omega
  · simp

/-- A period a MOVE writes is at least MIN_PERIOD (R25). -/
theorem effectivePeriod_min {delay : Nat} (h : delay < 2 ^ 27) (df : Bool) : 500 ≤ (effectivePeriod df delay).toNat := by
  rw [effectivePeriod_toNat h]
  cases df <;> simp

/-- The gate fires only while armed, on a strobe that completes the period (R140, R141). -/
theorem gateFires_iff (r : Bool) (s : State) :
    gateFires r s = true ↔ s.armed = true ∧ r = true ∧ s.period.toNat ≤ s.div.toNat + 1 := by
  simp [gateFires]

/-- Everything GATE can do (R140). -/
theorem applyGate_cases (r : Bool) (s : State) :
    (gateFires r s = true ∧ s.armed = true ∧ r = true ∧ s.period.toNat ≤ s.div.toNat + 1 ∧ applyGate r s = { s with div := 0 }) ∨
    (gateFires r s = false ∧ s.armed = true ∧ r = true ∧ s.div.toNat + 1 < s.period.toNat ∧
      applyGate r s = { s with div := s.div + 1 }) ∨
    (gateFires r s = false ∧ (s.armed = false ∨ r = false) ∧ applyGate r s = s) := by
  unfold gateFires applyGate
  by_cases ha : s.armed = true
  · by_cases hr : r = true
    · by_cases hp : s.period.toNat ≤ s.div.toNat + 1
      · simp [ha, hr, hp]
      · simp [ha, hr, hp]; omega
    · simp [hr]
  · simp [ha]

/-- Counting up does not wrap below the period (R140). -/
theorem div_succ_toNat {s : State} (h : s.div.toNat + 1 < s.period.toNat) : (s.div + 1).toNat = s.div.toNat + 1 := by
  have := s.period.isLt
  have one : (1 : Ticks).toNat = 1 := rfl
  rw [BitVec.toNat_add, one]
  omega

/-- The direction is one step toward the sign of `pending` (R143). -/
theorem direction_cases (p : Steps) :
    (0 < p.toInt ∧ direction p = 1) ∨ (p.toInt < 0 ∧ direction p = -1) ∨ (p.toInt = 0 ∧ direction p = 0) := by
  unfold direction
  rcases Int.lt_trichotomy p.toInt 0 with h | h | h
  · exact .inr (.inl ⟨h, Int.sign_eq_neg_one_of_neg h⟩)
  · exact .inr (.inr ⟨h, by simp [h]⟩)
  · exact .inl ⟨h, Int.sign_eq_one_of_pos h⟩

/-- One unit toward zero never leaves the range (R143, R144). -/
theorem stepMotor_pending_toInt (s : State) :
    (stepMotor s).pending.toInt = s.pending.toInt - direction s.pending := by
  have hr := pending_range s.pending
  rw [stepMotor_pending]
  rcases direction_cases s.pending with ⟨h, e⟩ | ⟨h, e⟩ | ⟨h, e⟩ <;> rw [e] <;>
    exact toInt_stepsOf (by omega) (by omega)

/-- A half-step moves `phase` by the direction, modulo 8 and never negative (R10, R143). -/
theorem stepMotor_phase_toNat (s : State) :
    ((stepMotor s).phase.toNat : Int) = (s.phase.toNat + direction s.pending) % 8 := by
  rw [stepMotor_phase, BitVec.toNat_ofInt]
  have : (0 : Int) ≤ (s.phase.toNat + direction s.pending) % 8 := Int.emod_nonneg _ (by omega)
  simp only [Nat.reducePow]
  rw [Int.toNat_of_nonneg (by simpa using this)]
  rfl

/-- Everything TICK can do (R143, R145). -/
theorem tick_cases (s : State) :
    (s.pending ≠ 0 ∧ tick s = stepMotor s) ∨ (s.pending = 0 ∧ tick s = disarm s) := by
  unfold tick
  by_cases h : s.pending = 0
  · exact .inr ⟨h, by simp [h]⟩
  · exact .inl ⟨h, if_pos h⟩

/-- Everything the gate and the tick step of one cycle can do together (R140, R143, R150). -/
theorem gateAndTick_cases (r : Bool) (s : State) :
    (gateFires r s = true ∧ s.armed = true ∧ r = true ∧ s.period.toNat ≤ s.div.toNat + 1 ∧ s.pending ≠ 0 ∧
      gateAndTick r s = stepMotor { s with div := 0 }) ∨
    (gateFires r s = true ∧ s.armed = true ∧ r = true ∧ s.period.toNat ≤ s.div.toNat + 1 ∧ s.pending = 0 ∧
      gateAndTick r s = disarm s) ∨
    (gateFires r s = false ∧ s.armed = true ∧ r = true ∧ s.div.toNat + 1 < s.period.toNat ∧
      gateAndTick r s = { s with div := s.div + 1 }) ∨
    (gateFires r s = false ∧ (s.armed = false ∨ r = false) ∧ gateAndTick r s = s) := by
  unfold gateAndTick
  rcases applyGate_cases r s with ⟨hf, ha, hr, hd, e⟩ | ⟨hf, ha, hr, hd, e⟩ | ⟨hf, ha, e⟩
  · rcases tick_cases { s with div := 0 } with ⟨hp, e'⟩ | ⟨hp, e'⟩
    · exact .inl ⟨hf, ha, hr, hd, hp, by rw [if_pos hf, e, e']⟩
    · exact .inr (.inl ⟨hf, ha, hr, hd, hp, by rw [if_pos hf, e, e']; rfl⟩)
  · exact .inr (.inr (.inl ⟨hf, ha, hr, hd, by simp [hf, e]⟩))
  · exact .inr (.inr (.inr ⟨hf, ha, by simp [hf, e]⟩))

@[simp] theorem mux_off (p : Phase) : mux false p = 0 := by rfl

@[simp] theorem mux_on (p : Phase) : mux true p = romSequence p := by rfl

end Sys2Proof.Machine
end

