-- ==== Sys2Proof/Laws/Commands.lean ====
section
/-! SUPPORT. What each command does, said once, and what no command touches. -/

namespace Sys2Proof.Machine

@[simp] theorem exec_nop (s : State) : exec .nop s = execNop s := by rfl
@[simp] theorem exec_move (df : Bool) (delay : Nat) (count : Int) (s : State) :
    exec (.move df delay count) s = execMove df delay count s := by rfl
@[simp] theorem exec_stop (s : State) : exec .stop s = execStop s := by rfl
@[simp] theorem exec_status (s : State) : exec .status s = execStatus s := by rfl
@[simp] theorem exec_reservedLow (op : Nat) (s : State) : exec (.reservedLow op) s = execReservedLow op s := by rfl
@[simp] theorem exec_reservedHigh (op : Nat) (s : State) : exec (.reservedHigh op) s = execReservedHigh op s := by rfl

/-- Everything a MOVE can do (R102): overflow, nothing to add, re-arm, or disarm at zero. -/
theorem execMove_cases (df : Bool) (delay : Nat) (count : Int) (s : State) :
    ((s.pending.toInt + count < -2 ^ 31 ∨ 2 ^ 31 - 1 < s.pending.toInt + count) ∧
      execMove df delay count s = .next { s with ovf := true }) ∨
    (count = 0 ∧ s.pending = 0 ∧ execMove df delay count s = .next (disarm s)) ∨
    (count = 0 ∧ s.pending ≠ 0 ∧ execMove df delay count s = .next s) ∨
    (count ≠ 0 ∧ -2 ^ 31 ≤ s.pending.toInt + count ∧ s.pending.toInt + count ≤ 2 ^ 31 - 1 ∧
      s.pending.toInt + count ≠ 0 ∧
      execMove df delay count s = .next
        { s with period := effectivePeriod df delay, pending := stepsOf (s.pending.toInt + count), armed := true, div := 0 }) ∨
    (count ≠ 0 ∧ s.pending.toInt + count = 0 ∧
      execMove df delay count s = .next
        { s with period := effectivePeriod df delay, pending := 0, armed := false, en := false, div := 0 }) := by
  have hr := pending_range s.pending
  unfold execMove exactSum
  by_cases hf : fitsPending (s.pending.toInt + count) = true
  · rw [if_pos hf]
    rw [fitsPending_iff] at hf
    by_cases hc : count = 0
    · rw [if_pos hc]
      by_cases hp : s.pending = 0
      · exact .inr (.inl ⟨hc, hp, by rw [moveNothing, if_pos hp]⟩)
      · exact .inr (.inr (.inl ⟨hc, hp, by rw [moveNothing, if_neg hp]⟩))
    · rw [if_neg hc]
      by_cases hs : s.pending.toInt + count = 0
      · exact .inr (.inr (.inr (.inr ⟨hc, hs, by simp [acceptMove, exactSum, hs, disarm, stepsOf]⟩)))
      · exact .inr (.inr (.inr (.inl ⟨hc, hf.1, hf.2, hs, by simp [acceptMove, exactSum, hs, rearm]⟩)))
  · rw [if_neg hf]
    refine .inl ⟨?_, rfl⟩
    rw [fitsPending_iff] at hf
    omega

/-- A command always goes on, in some state (R100). -/
theorem exec_goes_on (i : Instr) (s : State) : exec i s = .next ((nextOf (exec i s)).getD s) := by
  cases i <;> rfl

/-- Everything a command can do when it goes on (R100): each case names the command and the state it leaves. -/
theorem exec_cases {i : Instr} {s t : State} (h : exec i s = .next t) :
    (i = .nop ∧ t = s) ∨
    (∃ df delay count, i = .move df delay count ∧ execMove df delay count s = .next t) ∨
    (i = .stop ∧ t = disarm { respond s.pending s with pending := 0 }) ∨
    (i = .status ∧ t = respond (statusWord s) s) ∨
    (((∃ op, i = .reservedLow op) ∨ ∃ op, i = .reservedHigh op) ∧ t = { s with ill := true }) := by
  cases i with
  | nop => exact .inl ⟨rfl, by simpa [execNop] using h.symm⟩
  | move df delay count => exact .inr (.inl ⟨df, delay, count, rfl, h⟩)
  | stop => exact .inr (.inr (.inl ⟨rfl, by simpa [execStop] using h.symm⟩))
  | status => exact .inr (.inr (.inr (.inl ⟨rfl, by simpa [execStatus] using h.symm⟩)))
  | reservedLow op =>
    exact .inr (.inr (.inr (.inr ⟨.inl ⟨op, rfl⟩, by simpa [execReservedLow, raiseError] using h.symm⟩)))
  | reservedHigh op =>
    exact .inr (.inr (.inr (.inr ⟨.inr ⟨op, rfl⟩, by simpa [execReservedHigh, raiseError] using h.symm⟩)))

end Sys2Proof.Machine
end

