-- ==== Sys2Proof/Laws/Cycle.lean ====
section
/-! SUPPORT. What one clock cycle and one event can do, said once (R150, R151). -/

namespace Sys2Proof.Machine

/-- A reset cycle (R200). -/
theorem cycle_reset {p : Pins} (h : p.rst = true) (s : State) : cycle p s = .next (latchCoils (applyReset s)) := by
  rw [cycle, if_pos h]

/-- A cycle without a command (R115). -/
theorem cycle_noCommand {p : Pins} (h : p.rst = false) (h' : p.cmdValid = false) (s : State) :
    cycle p s = .next (latchCoils (beforeCommand p.refTick s)) := by
  simp [cycle, applyCommand, h, h']

/-- A cycle with a command (R100). -/
theorem cycle_command {p : Pins} (h : p.rst = false) (h' : p.cmdValid = true) (s : State) :
    cycle p s = andThen (exec (decode p.cmdWord) (beforeCommand p.refTick s)) fun t => .next (latchCoils t) := by
  simp [cycle, applyCommand, h, h']

/-- Everything a cycle can do when it goes on (R150). -/
theorem cycle_cases {p : Pins} {s t : State} (h : cycle p s = .next t) :
    (p.rst = true ∧ t = latchCoils (applyReset s)) ∨
    (p.rst = false ∧ p.cmdValid = false ∧ t = latchCoils (beforeCommand p.refTick s)) ∨
    (p.rst = false ∧ p.cmdValid = true ∧
      ∃ u, exec (decode p.cmdWord) (beforeCommand p.refTick s) = .next u ∧ t = latchCoils u) := by
  cases hr : p.rst with
  | true =>
    rw [cycle_reset hr] at h
    exact .inl ⟨rfl, by simpa using h.symm⟩
  | false =>
    cases hv : p.cmdValid with
    | false =>
      rw [cycle_noCommand hr hv] at h
      exact .inr (.inl ⟨rfl, rfl, by simpa using h.symm⟩)
    | true =>
      rw [cycle_command hr hv, exec_goes_on, andThen_next] at h
      exact .inr (.inr ⟨rfl, rfl, _, exec_goes_on _ _, by simpa using h.symm⟩)

/-- A cycle always goes on (R100, R176). -/
theorem cycle_goes_on (p : Pins) (s : State) : cycle p s = .next ((nextOf (cycle p s)).getD s) := by
  cases hr : p.rst with
  | true => rw [cycle_reset hr]; rfl
  | false =>
    cases hv : p.cmdValid with
    | false => rw [cycle_noCommand hr hv]; rfl
    | true => rw [cycle_command hr hv, exec_goes_on]; rfl

/-- A Reset event (R151). -/
theorem applyEvent_reset (s : State) : applyEvent .reset s = some (latchCoils (applyReset s)) := rfl

/-- A Tick event, while it is enabled (R151). -/
theorem applyEvent_tick {s : State} (h : s.armed = true) :
    applyEvent .tick s = some (latchCoils (tick (clearResponse s))) := by
  simp [applyEvent, Event.enabled, h]

/-- A Cmd event (R151). -/
theorem applyEvent_cmd (w : CmdWord) (s : State) :
    applyEvent (.cmd w) s = (nextOf (exec (decode w) (clearResponse s))).map latchCoils := rfl

/-- No inputs, no cycle. -/
@[simp] theorem runCycles_nil (s : State) : runCycles [] s = .next s := by rfl

/-- One cycle and then the rest. -/
theorem runCycles_cons (p : Pins) (ps : List Pins) (s : State) :
    runCycles (p :: ps) s = andThen (cycle p s) (runCycles ps) := rfl

/-- A stretch of inputs is the run of its first part and then of its second. -/
theorem runCycles_append (ps qs : List Pins) (s : State) :
    runCycles (ps ++ qs) s = andThen (runCycles ps s) (runCycles qs) := by
  induction ps generalizing s with
  | nil => rfl
  | cons p ps ih =>
    rw [List.cons_append, runCycles_cons, runCycles_cons, cycle_goes_on]
    exact ih _

end Sys2Proof.Machine
end

