-- ==== Sys2Proof/Laws/Decode.lean ====
section
/-! SUPPORT. What the fields of a packed word are, and what the decoder answers for each OP. -/

namespace Sys2Proof

/-- OP of a packed word. -/
theorem opField_packFields (op : Nat) (df : Bool) (delay : Nat) (count : Int) :
    opField (packFields op df delay count) = op % 16 := by
  have h : (packFields op df delay count).extractLsb' 60 4 = BitVec.ofNat 4 op := by
    apply BitVec.eq_of_getLsbD_eq
    intro i hi
    have h1 : ¬ (60 + i < 1 + (27 + 32)) := by omega
    have e : 60 + i - (1 + (27 + 32)) = i := by omega
    simp only [packFields, BitVec.getLsbD_extractLsb', BitVec.getLsbD_append, h1, e, hi, decide_true, Bool.true_and, if_false]
  rw [opField, h]; simp

/-- DF of a packed word. -/
theorem dfField_packFields (op : Nat) (df : Bool) (delay : Nat) (count : Int) :
    dfField (packFields op df delay count) = df := by
  have h1 : 59 < 1 + (27 + 32) := by omega
  have h2 : ¬ (59 < 27 + 32) := by omega
  simp only [dfField, packFields, BitVec.getLsbD_append, h1, h2, if_true, if_false]
  simp

/-- DELAY of a packed word. -/
theorem delayField_packFields (op : Nat) (df : Bool) (delay : Nat) (count : Int) :
    delayField (packFields op df delay count) = delay % 2 ^ 27 := by
  have h : (packFields op df delay count).extractLsb' 32 27 = BitVec.ofNat 27 delay := by
    apply BitVec.eq_of_getLsbD_eq
    intro i hi
    have h1 : 32 + i < 1 + (27 + 32) := by omega
    have h2 : 32 + i < 27 + 32 := by omega
    have h3 : ¬ (32 + i < 32) := by omega
    have e : 32 + i - 32 = i := by omega
    simp only [packFields, BitVec.getLsbD_extractLsb', BitVec.getLsbD_append, h1, h2, h3, e, hi, decide_true, Bool.true_and,
      if_true, if_false]
  rw [delayField, h]; simp

/-- COUNT of a packed word. -/
theorem countField_packFields (op : Nat) (df : Bool) (delay : Nat) (count : Int) :
    countField (packFields op df delay count) = count.bmod (2 ^ 32) := by
  have h : (packFields op df delay count).extractLsb' 0 32 = BitVec.ofInt 32 count := by
    apply BitVec.eq_of_getLsbD_eq
    intro i hi
    have h1 : i < 1 + (27 + 32) := by omega
    have h2 : i < 27 + 32 := by omega
    have h3 : i < 32 := by omega
    simp only [packFields, BitVec.getLsbD_extractLsb', BitVec.getLsbD_append, h1, h2, h3, decide_true, Bool.true_and,
      if_true, Nat.zero_add]
  rw [countField, h, BitVec.toInt_ofInt]

/-- When a MOVE can be encoded (R72, R73). -/
theorem wellFormed_move (df : Bool) (delay : Nat) (count : Int) :
    (Instr.move df delay count).WellFormed ↔ delay < 2 ^ 27 ∧ -2 ^ 31 ≤ count ∧ count ≤ 2 ^ 31 - 1 := by
  simp [Instr.WellFormed, Instr.wf]

/-- The OPs of the table's first reserved row (R71). -/
theorem wellFormed_reservedLow (op : Nat) : (Instr.reservedLow op).WellFormed ↔ 4 ≤ op ∧ op ≤ 7 := by
  simp [Instr.WellFormed, Instr.wf]

/-- The OPs of the table's second reserved row (R71). -/
theorem wellFormed_reservedHigh (op : Nat) : (Instr.reservedHigh op).WellFormed ↔ 8 ≤ op ∧ op ≤ 15 := by
  simp [Instr.WellFormed, Instr.wf]

/-- A word's DELAY fits its field. -/
theorem delayField_lt (w : CmdWord) : delayField w < 2 ^ 27 := (w.extractLsb' 32 27).isLt

/-- A word's OP fits its field. -/
theorem opField_lt (w : CmdWord) : opField w < 16 := (w.extractLsb' 60 4).isLt

theorem decode_nop {w : CmdWord} (h : opField w = 0) : decode w = .nop := by simp [decode, h]

theorem decode_move {w : CmdWord} (h : opField w = 1) :
    decode w = .move (dfField w) (delayField w) (countField w) := by simp [decode, h]

theorem decode_stop {w : CmdWord} (h : opField w = 2) : decode w = .stop := by simp [decode, h]

theorem decode_status {w : CmdWord} (h : opField w = 3) : decode w = .status := by simp [decode, h]

theorem decode_reservedLow {w : CmdWord} (h : 4 ≤ opField w) (h' : opField w ≤ 7) :
    decode w = .reservedLow (opField w) := by
  have : opField w < 8 := by omega
  unfold decode
  split <;> first | omega | simp [this]

theorem decode_reservedHigh {w : CmdWord} (h : 8 ≤ opField w) : decode w = .reservedHigh (opField w) := by
  have : ¬ opField w < 8 := by omega
  unfold decode
  split <;> first | omega | simp [this]

/-- Everything the decoder can answer (R71, R76). -/
theorem decode_cases (w : CmdWord) :
    (opField w = 0 ∧ decode w = .nop) ∨
    (opField w = 1 ∧ decode w = .move (dfField w) (delayField w) (countField w)) ∨
    (opField w = 2 ∧ decode w = .stop) ∨ (opField w = 3 ∧ decode w = .status) ∨
    (4 ≤ opField w ∧ opField w ≤ 7 ∧ decode w = .reservedLow (opField w)) ∨
    (8 ≤ opField w ∧ decode w = .reservedHigh (opField w)) := by
  have := opField_lt w
  rcases Nat.lt_or_ge (opField w) 4 with h | h
  · have h' : opField w = 0 ∨ opField w = 1 ∨ opField w = 2 ∨ opField w = 3 := by omega
    rcases h' with h | h | h | h
    · exact .inl ⟨h, decode_nop h⟩
    · exact .inr (.inl ⟨h, decode_move h⟩)
    · exact .inr (.inr (.inl ⟨h, decode_stop h⟩))
    · exact .inr (.inr (.inr (.inl ⟨h, decode_status h⟩)))
  · rcases Nat.lt_or_ge (opField w) 8 with h' | h'
    · exact .inr (.inr (.inr (.inr (.inl ⟨h, by omega, decode_reservedLow h (by omega)⟩))))
    · exact .inr (.inr (.inr (.inr (.inr ⟨h', decode_reservedHigh h'⟩))))

end Sys2Proof
end

