-- ==== Sys2Proof/Laws/PerInstr.lean ====
section
/-! SUPPORT. The family EncodesOp: OP of a command's word is the command's own OP (R71, R77), one lemma for each constructor. -/

namespace Sys2Proof.Laws.EncodesOp

/-- The word of a well-formed command carries its OP in bits 63:60. -/
def Statement (i : Instr) : Prop := i.WellFormed → opField (encode i) = i.op

theorem nop : Statement .nop := fun _ => opField_packFields 0 false 0 0

theorem move (df : Bool) (delay : Nat) (count : Int) : Statement (.move df delay count) :=
  fun _ => opField_packFields 1 df delay count

theorem stop : Statement .stop := fun _ => opField_packFields 2 false 0 0

theorem status : Statement .status := fun _ => opField_packFields 3 false 0 0

theorem reservedLow (op : Nat) : Statement (.reservedLow op) := by
  intro h
  have h' := (wellFormed_reservedLow op).mp h
  refine (opField_packFields op false 0 0).trans ?_
  simp only [Instr.op]
  omega

theorem reservedHigh (op : Nat) : Statement (.reservedHigh op) := by
  intro h
  have h' := (wellFormed_reservedHigh op).mp h
  refine (opField_packFields op false 0 0).trans ?_
  simp only [Instr.op]
  omega

end Sys2Proof.Laws.EncodesOp
end

