-- ==== Sys2Proof/Tests/Slice0.lean ====
section
/-! SUPPORT. The model's own tests. The expected results are the spec's: spec/95_test_vectors.md (parts L1 and L2), R80 and R92.
After them, for each statement with hypotheses, a concrete input that meets them. -/

namespace Sys2Proof.Tests

open Sys2Proof.Machine

/-- A state as 95_test_vectors.md writes it: (phase, pending, period, div, armed, en, ovf, ill), its outputs latched. -/
def vec (phase : Nat) (pending : Int) (period div armed en ovf ill : Nat) : State :=
  { phase := BitVec.ofNat 3 phase, pending := BitVec.ofInt 32 pending, period := BitVec.ofNat 27 period,
    div := BitVec.ofNat 27 div, armed := armed == 1, en := en == 1, ovf := ovf == 1, ill := ill == 1,
    rspValid := false, rspData := 0, coils := mux (en == 1) (BitVec.ofNat 3 phase), inputs := [], freeIndex := 0 }

/-- A cycle without reset and command. -/
def idlePins (refTick : Bool) : Pins := { rst := false, refTick := refTick, cmdValid := false, cmdWord := 0 }

/-- A cycle that carries a command, with or without a strobe. -/
def cmdPins (refTick : Bool) (w : CmdWord) : Pins := { rst := false, refTick := refTick, cmdValid := true, cmdWord := w }

/-- The state after a cycle that carries a command and no strobe. -/
def after (w : CmdWord) (s : State) : Option State := nextOf (cycle (cmdPins false w) s)

/-! ## WellFormed smoke test: each check refuses an ill-formed term -/

theorem test_wf_refuses_wide_delay : (Instr.move false (2 ^ 27) 1).wf = false := by decide
theorem test_wf_refuses_high_count : (Instr.move true 0 (2 ^ 31)).wf = false := by decide
theorem test_wf_refuses_low_count : (Instr.move true 0 (-2 ^ 31 - 1)).wf = false := by decide
theorem test_wf_refuses_reservedLow : (Instr.reservedLow 3).wf = false ∧ (Instr.reservedLow 8).wf = false := by decide
theorem test_wf_refuses_reservedHigh : (Instr.reservedHigh 7).wf = false ∧ (Instr.reservedHigh 16).wf = false := by decide

/-! ## Decoding: words written out bit by bit from R70 (OP, DF, DELAY, COUNT) -/

theorem test_decode_nop_ignores_the_rest :
    decode (0b0000#4 ++ (0b1#1 ++ (0b111111111111111111111111111#27 ++ 0xFFFFFFFF#32))) = .nop := by decide
theorem test_decode_move :
    decode (0b0001#4 ++ (0b0#1 ++ (0b000000000000000011111010000#27 ++ 0b00000000000000000000000000000101#32))) =
      .move false 2000 5 := by decide
theorem test_decode_move_default :
    decode (0b0001#4 ++ (0b1#1 ++ (0b000000000000000000000000101#27 ++ 0b11111111111111111111111111111101#32))) =
      .move true 5 (-3) := by decide
theorem test_decode_stop : decode (0b0010#4 ++ (0b0#1 ++ (0#27 ++ 0#32))) = .stop := by decide
theorem test_decode_status : decode (0b0011#4 ++ (0b0#1 ++ (0#27 ++ 1#32))) = .status := by decide
theorem test_decode_reservedLow : decode (0b0111#4 ++ (0b0#1 ++ (0#27 ++ 0#32))) = .reservedLow 7 := by decide
theorem test_decode_reservedHigh : decode (0b1000#4 ++ (0b0#1 ++ (0#27 ++ 5#32))) = .reservedHigh 8 := by decide
theorem test_decodeTableWord : decodeTableWord 64 0x180000007FFFFFFF = some (.move true 0 2147483647) := by decide
theorem test_withFetchWord_runs_move : nextOf (step (State.reset.withFetchWord 64 0x1800000000000004)) =
    some (vec 0 4 1000 0 1 0 0 0) := by decide

/-! ## Assembler (R77) -/

theorem test_assembler_reads_hex_and_refuses_range :
    (parseLine "MOVE -0x3, 0x1F4".toList).bind assemble = some 0x100001F4FFFFFFFD ∧
    (parseLine "MOVE 2147483648".toList).bind assemble = none ∧
    (parseLine "MOVE 1, 134217728".toList).bind assemble = none ∧
    (parseLine "IS_RUNNING".toList).bind assemble = some 0x3000000000000000 := by decide

/-! ## The vectors of 95_test_vectors.md, part L2 -/

/-- V-MOVE, M1 to M11: before, word, after, coils after. -/
def moveRowsA : List (State × CmdWord × State × Coils) :=
  [ (vec 0 0 1000 0 0 0 0 0, 0x1800000000000004, vec 0 4 1000 0 1 0 0 0, 0x0),
    (vec 0 0 1000 0 0 0 0 0, 0x100001F4FFFFFFFD, vec 0 (-3) 500 0 1 0 0 0, 0x0),
    (vec 3 0 1000 0 0 0 0 0, 0x1800000000000000, vec 3 0 1000 0 0 0 0 0, 0x0),
    (vec 4 0 1000 300 1 1 0 0, 0x1800000000000000, vec 4 0 1000 0 0 0 0 0, 0x0),
    (vec 2 5 700 123 1 1 0 0, 0x1800000000000000, vec 2 5 700 123 1 1 0 0, 0x9),
    (vec 2 5 700 123 1 1 0 0, 0x1000000000000000, vec 2 5 700 123 1 1 0 0, 0x9),
    (vec 1 3 700 10 1 1 0 0, 0x18000000FFFFFFFD, vec 1 0 1000 0 0 0 0 0, 0x0),
    (vec 1 3 700 10 1 1 0 0, 0x18000000FFFFFFFB, vec 1 (-2) 1000 0 1 1 0 0, 0x1),
    (vec 2 3 2000 1500 1 1 0 0, 0x1000000000000002, vec 2 5 500 0 1 1 0 0, 0x9),
    (vec 0 4 1000 999 1 0 0 0, 0x1000032000000001, vec 0 5 800 0 1 0 0 0, 0x0),
    (vec 6 0 500 250 1 1 0 0, 0x1800000000000003, vec 6 3 1000 0 1 1 0 0, 0x6) ]

/-- V-MOVE, M12 to M22. -/
def moveRowsB : List (State × CmdWord × State × Coils) :=
  [ (vec 0 2147483647 1000 5 1 0 0 0, 0x1800000000000001, vec 0 2147483647 1000 5 1 0 1 0, 0x0),
    (vec 0 (-2147483648) 1000 5 1 0 0 0, 0x18000000FFFFFFFF, vec 0 (-2147483648) 1000 5 1 0 1 0, 0x0),
    (vec 0 (-2147483648) 1000 5 1 0 0 0, 0x180000007FFFFFFF, vec 0 (-1) 1000 0 1 0 0 0, 0x0),
    (vec 0 0 1000 0 0 0 0 0, 0x100001F480000000, vec 0 (-2147483648) 500 0 1 0 0 0, 0x0),
    (vec 0 0 1000 0 0 0 0 0, 0x100001F300000001, vec 0 1 500 0 1 0 0 0, 0x0),
    (vec 0 0 1000 0 0 0 0 0, 0x100001F400000001, vec 0 1 500 0 1 0 0 0, 0x0),
    (vec 0 0 1000 0 0 0 0 0, 0x100001F500000001, vec 0 1 501 0 1 0 0 0, 0x0),
    (vec 0 0 1000 0 0 0 0 0, 0x17FFFFFF00000001, vec 0 1 134217727 0 1 0 0 0, 0x0),
    (vec 0 0 1000 0 0 0 0 0, 0x1800000500000001, vec 0 1 1000 0 1 0 0 0, 0x0),
    (vec 0 0 1000 0 0 0 0 0, 0x100000000000000A, vec 0 10 500 0 1 0 0 0, 0x0),
    (vec 0 0 1000 0 0 0 1 0, 0x1800000000000001, vec 0 1 1000 0 1 0 1 0, 0x0) ]

theorem test_move_vectors_first_half :
    ∀ r ∈ moveRowsA, after r.2.1 r.1 = some { r.2.2.1 with coils := r.2.2.2 } := by decide
theorem test_move_vectors_second_half :
    ∀ r ∈ moveRowsB, after r.2.1 r.1 = some { r.2.2.1 with coils := r.2.2.2 } := by decide

/-- V-STOP, S1 to S7: before, response, after; the coils are off after each. -/
theorem test_stop_vectors :
    ∀ r ∈ ([ (vec 3 0 1000 0 0 0 0 0, 0x00000000, vec 3 0 1000 0 0 0 0 0),
             (vec 5 (-7) 600 42 1 1 0 0, 0xFFFFFFF9, vec 5 0 600 0 0 0 0 0),
             (vec 0 9 1000 7 1 0 0 0, 0x00000009, vec 0 0 1000 0 0 0 0 0),
             (vec 4 0 1000 10 1 1 0 0, 0x00000000, vec 4 0 1000 0 0 0 0 0),
             (vec 1 (-2147483648) 1000 0 1 1 0 0, 0x80000000, vec 1 0 1000 0 0 0 0 0),
             (vec 0 2147483647 1000 0 1 0 0 0, 0x7FFFFFFF, vec 0 0 1000 0 0 0 0 0),
             (vec 2 3 1000 0 1 1 1 1, 0x00000003, vec 2 0 1000 0 0 0 1 1) ] : List (State × RspWord × State)),
      after 0x2000000000000000 r.1 = some { r.2.2 with rspValid := true, rspData := r.2.1, coils := 0 } := by decide

/-- V-STATUS, Q1 to Q7: state, response; no register changes. -/
theorem test_status_vectors :
    ∀ r ∈ ([ (vec 0 0 1000 0 0 0 0 0, 0x00000000), (vec 0 4 1000 0 1 0 0 0, 0x00000003),
             (vec 5 (-2) 1000 0 1 1 0 0, 0x0000002F), (vec 4 0 1000 0 1 1 0 0, 0x00000026),
             (vec 7 0 1000 0 0 0 0 0, 0x00000038), (vec 7 1 1000 0 1 1 1 1, 0x000000FF),
             (vec 0 0 1000 0 0 0 0 1, 0x00000080) ] : List (State × RspWord)),
      after 0x3000000000000000 r.1 = some { r.1 with rspValid := true, rspData := r.2 } := by decide

/-- V-NOP, N1 and N2: no register changes, whatever the ignored bits. -/
theorem test_nop_vectors :
    after 0x0000000000000000 (vec 2 3 1000 17 1 1 0 0) = some (vec 2 3 1000 17 1 1 0 0) ∧
    after 0x0FFFFFFFFFFFFFFF (vec 0 0 1000 0 0 0 0 0) = some (vec 0 0 1000 0 0 0 0 0) := by decide

/-- V-RES, X1 and X4 (OP 0x4). -/
theorem test_reservedLow_vectors :
    after 0x4000000000000000 (vec 2 3 1000 17 1 1 0 0) = some (vec 2 3 1000 17 1 1 0 1) ∧
    after 0x4000000000000000 (vec 0 0 1000 0 0 0 0 1) = some (vec 0 0 1000 0 0 0 0 1) := by decide

/-- V-RES, X2 and X3 (OP 0x8 and 0xF). -/
theorem test_reservedHigh_vectors :
    after 0x8000000000000005 (vec 0 0 1000 0 0 0 0 0) = some (vec 0 0 1000 0 0 0 0 1) ∧
    after 0xF800000000000004 (vec 0 0 1000 0 0 0 0 0) = some (vec 0 0 1000 0 0 0 0 1) := by decide

/-- V-TICK, T1 to T9: before, after, coils after. -/
theorem test_tick_vectors :
    ∀ r ∈ ([ (vec 0 4 1000 0 1 0 0 0, vec 1 3 1000 0 1 1 0 0, 0x1), (vec 7 2 1000 0 1 1 0 0, vec 0 1 1000 0 1 1 0 0, 0x3),
             (vec 0 (-3) 1000 0 1 0 0 0, vec 7 (-2) 1000 0 1 1 0 0, 0x2),
             (vec 3 1 1000 0 1 1 0 0, vec 4 0 1000 0 1 1 0 0, 0xC),
             (vec 3 (-1) 1000 0 1 1 0 0, vec 2 0 1000 0 1 1 0 0, 0x9),
             (vec 5 0 1000 0 1 1 0 0, vec 5 0 1000 0 0 0 0 0, 0x0),
             (vec 2 2147483647 1000 0 1 1 0 0, vec 3 2147483646 1000 0 1 1 0 0, 0x8),
             (vec 2 (-2147483648) 1000 0 1 1 0 0, vec 1 (-2147483647) 1000 0 1 1 0 0, 0x1),
             (vec 6 5 1000 0 1 1 1 0, vec 7 4 1000 0 1 1 1 0, 0x2) ] : List (State × State × Coils)),
      applyEvent .tick r.1 = some { r.2.1 with coils := r.2.2 } := by decide

/-- V-GATE, G-1 to G-6: period, div, armed, ref_tick, fire, div after. -/
theorem test_gate_vectors :
    ∀ r ∈ ([ (500, 0, 1, true, false, 1), (500, 498, 1, true, false, 499), (500, 499, 1, true, true, 0),
             (500, 499, 1, false, false, 499), (1000, 0, 0, true, false, 0),
             (134217727, 134217726, 1, true, true, 0) ] : List (Nat × Nat × Nat × Bool × Bool × Nat)),
      gateFires r.2.2.2.1 (vec 0 1 r.1 r.2.1 r.2.2.1 0 0 0) = r.2.2.2.2.1 ∧
      (applyGate r.2.2.2.1 (vec 0 1 r.1 r.2.1 r.2.2.1 0 0 0)).div.toNat = r.2.2.2.2.2 := by decide

/-- V-RESET, Z1 to Z3. -/
theorem test_reset_vectors :
    nextOf (cycle ⟨true, false, false, 0⟩ (vec 5 (-7) 600 42 1 1 1 1)) = some (vec 0 0 1000 0 0 0 0 0) ∧
    nextOf (cycle ⟨true, true, true, 0x3000000000000000⟩ (vec 4 0 1000 999 1 1 0 0)) = some (vec 0 0 1000 0 0 0 0 0) ∧
    nextOf (cycle ⟨true, false, true, 0x1800000000000004⟩ (vec 0 0 1000 0 0 0 0 0)) = some (vec 0 0 1000 0 0 0 0 0) := by
  decide

/-- V-CYCLE, Y1 to Y5: before, word, after the command, coils from the next cycle, whether there is a response, the response. -/
theorem test_cycle_vectors :
    ∀ r ∈ ([ (vec 2 3 1000 999 1 1 0 0, 0x1800000000000002, vec 3 4 1000 0 1 1 0 0, 0x8, false, 0),
             (vec 2 3 1000 999 1 1 0 0, 0x2000000000000000, vec 3 0 1000 0 0 0 0 0, 0x0, true, 2),
             (vec 4 0 1000 999 1 1 0 0, 0x3000000000000000, vec 4 0 1000 0 0 0 0 0, 0x0, true, 0x20),
             (vec 3 1 1000 999 1 1 0 0, 0x1800000000000000, vec 4 0 1000 0 0 0 0 0, 0x0, false, 0),
             (vec 3 1 1000 999 1 1 0 0, 0x18000000FFFFFFFF, vec 4 (-1) 1000 0 1 1 0 0, 0xC, false, 0) ] :
           List (State × CmdWord × State × Coils × Bool × RspWord)),
      nextOf (cycle (cmdPins true r.2.1) r.1) =
        some { r.2.2.1 with coils := r.2.2.2.1, rspValid := r.2.2.2.2.1, rspData := r.2.2.2.2.2 } := by decide

/-- P4, steps 7 and 9 as the fault model sees them: it stops with ids 4 and 3 (R170). -/
theorem test_fault_model_ids :
    strictStep ((vec 3 0 1000 0 0 0 0 0).withFetchWord 64 0x4000000000000000) = .fault .illegalCommand ∧
    strictStep ((vec 3 2147483647 1000 0 1 0 0 0).withFetchWord 64 0x1800000000000001) = .fault .overflow :=
  ⟨rfl, rfl⟩

/-! ## Witnesses: inputs that meet the hypotheses of each statement -/

/-- A state of each class of R37 with the invariants. -/
theorem wit_inv_idle : (vec 3 0 1000 0 0 0 0 0).Inv := ⟨by decide, by decide, by decide, by decide, by decide, by decide⟩
theorem wit_inv_armed : (vec 0 4 500 499 1 0 0 0).Inv := ⟨by decide, by decide, by decide, by decide, by decide, by decide⟩
theorem wit_inv_stepping : (vec 5 (-2) 1000 999 1 1 0 0).Inv :=
  ⟨by decide, by decide, by decide, by decide, by decide, by decide⟩
theorem wit_inv_dwell : (vec 4 0 500 499 1 1 0 0).Inv := ⟨by decide, by decide, by decide, by decide, by decide, by decide⟩
theorem wit_latched_idle : (vec 3 0 1000 0 0 0 0 0).OutputsLatched := ⟨by decide, by decide⟩
theorem wit_latched_armed : (vec 0 4 500 499 1 0 0 0).OutputsLatched := ⟨by decide, by decide⟩
theorem wit_latched_stepping : (vec 5 (-2) 1000 999 1 1 0 0).OutputsLatched := ⟨by decide, by decide⟩
theorem wit_latched_dwell : (vec 4 0 500 499 1 1 0 0).OutputsLatched := ⟨by decide, by decide⟩

/-- A scheduled cycle steps to the state that `cycle` gives. -/
theorem step_placed (p : Pins) (s : State) : step (s.placePins p) = cycle p { s with inputs := s.inputs.tail } := rfl

/-- OpFieldSelectsTheCommand, each clause at the ends of its range. -/
theorem wit_OpFieldSelectsTheCommand :
    ((0x0FFFFFFFFFFFFFFF : CmdWord).extractLsb 63 60).toNat = 0 ∧ ((0x1FFFFFFFFFFFFFFF : CmdWord).extractLsb 63 60).toNat = 1 ∧
    ((0x2000000000000001 : CmdWord).extractLsb 63 60).toNat = 2 ∧ ((0x3FFFFFFFFFFFFFFF : CmdWord).extractLsb 63 60).toNat = 3 ∧
    ((0x4000000000000000 : CmdWord).extractLsb 63 60).toNat = 4 ∧ ((0x7FFFFFFFFFFFFFFF : CmdWord).extractLsb 63 60).toNat = 7 ∧
    ((0x8000000000000000 : CmdWord).extractLsb 63 60).toNat = 8 ∧
    ((0xFFFFFFFFFFFFFFFF : CmdWord).extractLsb 63 60).toNat = 15 := by decide

theorem wit_DecodeInvertsEncode :
    (Instr.move true (2 ^ 27 - 1) (-2 ^ 31)).WellFormed ∧ (Instr.move false 0 (2 ^ 31 - 1)).WellFormed ∧
    (Instr.reservedLow 4).WellFormed ∧ (Instr.reservedLow 7).WellFormed ∧ (Instr.reservedHigh 8).WellFormed ∧
    (Instr.reservedHigh 15).WellFormed := by decide

/-- Two STOP words, two MOVE words with DF = 1, two with DF = 0, and a command of the second clause. -/
theorem wit_IgnoredFieldsNeverMatter :
    (0x2000000000000000 : CmdWord).extractLsb 63 60 = (0x2FFFFFFFFFFFFFFF : CmdWord).extractLsb 63 60 ∧
    ((0x1800000000000001 : CmdWord).extractLsb 63 60 = (0x1FFFFFFF00000001 : CmdWord).extractLsb 63 60 ∧
      (0x1800000000000001 : CmdWord).getLsbD 59 = (0x1FFFFFFF00000001 : CmdWord).getLsbD 59 ∧
      (0x1800000000000001 : CmdWord).extractLsb 31 0 = (0x1FFFFFFF00000001 : CmdWord).extractLsb 31 0 ∧
      (0x1800000000000001 : CmdWord).getLsbD 59 = true) ∧
    ((0x3FFFFFFFFFFFFFFF : CmdWord).extractLsb 63 60).toNat < 4 ∧
    exec (decode 0x3FFFFFFFFFFFFFFF) State.reset = .next (respond 0 State.reset) := ⟨by decide, by decide, by decide, rfl⟩

theorem wit_DefaultMoveEqualsThousandTicks :
    assemble (.moveDefault (-2 ^ 31)) = some 0x1800000080000000 ∧
    assemble (.moveDelay (-2 ^ 31) 1000) = some 0x100003E880000000 := by decide

theorem wit_DisassembleInvertsAssemble :
    assemble (.moveDelay (2 ^ 31 - 1) (2 ^ 27 - 1)) = some 0x17FFFFFF7FFFFFFF ∧ assemble .isRunning = some 0x3000000000000000 ∧
    assemble (.word 0x4000000000000000) = some 0x4000000000000000 ∧
    4 ≤ ((0x4000000000000000 : CmdWord).extractLsb 63 60).toNat ∧
    4 ≤ ((0xFFFFFFFFFFFFFFFF : CmdWord).extractLsb 63 60).toNat ∧
    ((0x1FFFFFFF80000000 : CmdWord).extractLsb 63 60).toNat = 1 ∧ (0x1FFFFFFF80000000 : CmdWord).getLsbD 59 = true ∧
    ((0x17FFFFFF7FFFFFFF : CmdWord).extractLsb 63 60).toNat = 1 ∧
    (0x17FFFFFF7FFFFFFF : CmdWord).getLsbD 59 = false := by decide

theorem wit_RomSequenceProperties : (7 : Phase).toNat % 2 = 1 ∧ (0 : Phase).toNat % 2 = 0 ∧ romSequence 7 = romSequence 7 := by
  decide

/-- A step of a stepping tick: the hypotheses of CoilsFollowTheMux, PhaseMovesOnlyByTicks, PendingHasFourWriters,
CoilsChangeOnlyAtTickOrDisarm and EveryCycleLatchesTheOutputs, in a cycle that is no reset, forward. -/
theorem wit_step_forward_tick :
    step ((vec 7 2 1000 999 1 1 0 0).placePins (idlePins true)) = .next (vec 0 1 1000 0 1 1 0 0) ∧
    ((vec 7 2 1000 999 1 1 0 0).placePins (idlePins true)).OutputsLatched ∧
    (vec 0 1 1000 0 1 1 0 0).coils ≠ (vec 7 2 1000 999 1 1 0 0).coils ∧
    gateFires true ((vec 7 2 1000 999 1 1 0 0).placePins (idlePins true)) = true := ⟨rfl, ⟨rfl, by decide⟩, by decide, by decide⟩

/-- The same in reverse, and the first step after an arming, which turns the coils on (CoilsGoOnOnlyAtSteppingTicks). -/
theorem wit_step_reverse_tick :
    step ((vec 0 (-3) 500 499 1 0 0 0).placePins (idlePins true)) = .next (vec 7 (-2) 500 0 1 1 0 0) ∧
    gateFires true ((vec 0 (-3) 500 499 1 0 0 0).placePins (idlePins true)) = true ∧
    (vec 0 (-3) 500 499 1 0 0 0).en = false ∧ (vec 7 (-2) 500 0 1 1 0 0).en = true := ⟨rfl, by decide, rfl, rfl⟩

/-- The terminal tick: a step that disarms (CoilsGoOnOnlyAtSteppingTicks, CoilsChangeOnlyAtTickOrDisarm). -/
theorem wit_step_terminal_tick :
    step ((vec 4 0 1000 999 1 1 0 0).placePins (idlePins true)) = .next (vec 4 0 1000 0 0 0 0 0) ∧
    (vec 4 0 1000 999 1 1 0 0).armed = true ∧ (vec 4 0 1000 0 0 0 0 0).armed = false := ⟨rfl, rfl, rfl⟩

/-- A reset cycle: the first clause of ResetWritesEveryRegister, StepRunsTheDecodedCommand, FlagsStickUntilReset and others. -/
theorem wit_step_reset :
    ((vec 5 (-7) 600 42 1 1 1 1).placePins resetPins).pins.rst = true ∧
    step ((vec 5 (-7) 600 42 1 1 1 1).placePins resetPins) = .next State.reset := ⟨rfl, rfl⟩

/-- A cycle with a command and no tick: StepRunsTheDecodedCommand, FlagsStickUntilReset, OnlyStopAndStatusRespond. -/
theorem wit_step_command :
    ((vec 0 0 1000 0 0 0 0 0).placePins (cmdPins false 0x1800000000000004)).pins.rst = false ∧
    ((vec 0 0 1000 0 0 0 0 0).placePins (cmdPins false 0x1800000000000004)).pins.cmdValid = true ∧
    exec (decode 0x1800000000000004) (gateAndTick false (clearResponse (vec 0 0 1000 0 0 0 0 0))) =
      .next { vec 0 4 1000 0 1 0 0 0 with coils := 0 } ∧
    step ((vec 0 0 1000 0 0 0 0 0).placePins (cmdPins false 0x1800000000000004)) = .next (vec 0 4 1000 0 1 0 0 0) :=
  ⟨rfl, rfl, rfl, rfl⟩

/-- A cycle without a command and without a fire: NoCommandOnlyTicks and StepRunsTheDecodedCommand's second clause. -/
theorem wit_NoCommandOnlyTicks :
    (idlePins true).rst = false ∧ (idlePins true).cmdValid = false ∧ gateFires true (vec 0 4 500 498 1 0 0 0) = false ∧
    step ((vec 0 4 500 498 1 0 0 0).placePins (idlePins true)) = .next (vec 0 4 500 499 1 0 0 0) := ⟨rfl, rfl, by decide, rfl⟩

theorem wit_PlacedWordIsTheNextCommand :
    exec (decode 0x3000000000000000) (clearResponse { vec 5 (-2) 1000 0 1 1 0 0 with inputs := [] }) =
      .next { vec 5 (-2) 1000 0 1 1 0 0 with rspValid := true, rspData := 0x2F } := by rfl

/-- Both ends of the range: M12 and M13. -/
theorem wit_MoveOverflowSetsOnlyOvf :
    2 ^ 31 - 1 < (vec 0 2147483647 1000 5 1 0 0 0).pending.toInt + 1 ∧
    (vec 0 (-2147483648) 1000 5 1 0 0 0).pending.toInt + -1 < -2 ^ 31 := by decide

/-- Each clause: the terminal dwell, `pending` ≠ 0, and Idle by the invariants. -/
theorem wit_MoveZeroOnlyEndsTheDwell :
    (vec 4 0 1000 300 1 1 0 0).pending = 0 ∧ (vec 2 5 700 123 1 1 0 0).pending ≠ 0 ∧ (vec 3 0 1000 0 0 0 0 0).Inv ∧
    (vec 3 0 1000 0 0 0 0 0).classOf ≠ some .terminalDwell := ⟨by decide, by decide, wit_inv_idle, by decide⟩

/-- A sum at the end of the range, with the largest delay, and M14. -/
theorem wit_MoveAddsAndRearms :
    (Instr.move false (2 ^ 27 - 1) 2147483647).WellFormed ∧ (2147483647 : Int) ≠ 0 ∧
    -2 ^ 31 ≤ (vec 0 0 1000 0 0 0 0 0).pending.toInt + 2147483647 ∧
    (vec 0 0 1000 0 0 0 0 0).pending.toInt + 2147483647 ≤ 2 ^ 31 - 1 ∧
    (vec 0 0 1000 0 0 0 0 0).pending.toInt + 2147483647 ≠ 0 ∧
    (vec 0 (-2147483648) 1000 5 1 0 0 0).pending.toInt + 2147483647 = -1 := by decide

/-- M7. -/
theorem wit_MoveToZeroDisarmsAtOnce :
    (Instr.move true 0 (-3)).WellFormed ∧ (-3 : Int) ≠ 0 ∧ (vec 1 3 700 10 1 1 0 0).pending.toInt + -3 = 0 := by decide

/-- M8: a MOVE that goes on; also a command for OneErrorPerCommand and CommandsLeaveTheRestUnchanged. -/
theorem wit_MoveNeverTurnsCoilsOn :
    exec (.move true 0 (-5)) (vec 1 3 700 10 1 1 0 0) = .next (vec 1 (-2) 1000 0 1 1 0 0) ∧
    (vec 1 (-2) 1000 0 1 1 0 0).en = true := ⟨rfl, rfl⟩

/-- Both errors, each of which changes its flag. -/
theorem wit_OneErrorPerCommand :
    exec (.move true 0 1) (vec 0 2147483647 1000 5 1 0 0 0) = .next (vec 0 2147483647 1000 5 1 0 1 0) ∧
    exec (.reservedLow 4) (vec 2 3 1000 17 1 1 0 0) = .next (vec 2 3 1000 17 1 1 0 1) ∧
    exec (.reservedHigh 15) (vec 2 3 1000 17 1 1 0 0) = .next (vec 2 3 1000 17 1 1 0 1) := ⟨rfl, rfl, rfl⟩

/-- A MOVE with count 0, and a command that is neither STOP, STATUS nor MOVE. -/
theorem wit_CommandsLeaveTheRestUnchanged :
    exec (.move false 9 0) (vec 2 5 700 123 1 1 0 0) = .next (vec 2 5 700 123 1 1 0 0) ∧
    exec .nop (vec 2 3 1000 17 1 1 0 0) = .next (vec 2 3 1000 17 1 1 0 0) := ⟨rfl, rfl⟩

theorem wit_StopReturnsAndCancels :
    exec .stop (vec 5 (-7) 600 42 1 1 0 0) =
      .next { vec 5 0 600 0 0 0 0 0 with rspValid := true, rspData := 0xFFFFFFF9, coils := 0x4 } := by rfl

/-- A STOP and then a strobe, a STATUS, a reserved OP and a reset: no MOVE among them. -/
theorem wit_SecondStopReturnsZero :
    exec .stop (vec 5 (-7) 600 42 1 1 0 0) =
      .next { vec 5 0 600 0 0 0 0 0 with rspValid := true, rspData := 0xFFFFFFF9, coils := 0x4 } ∧
    ∀ p ∈ [idlePins true, cmdPins true 0x3000000000000000, cmdPins false 0xF800000000000004, resetPins],
      p.cmdValid = true → ∀ df delay count, decode p.cmdWord ≠ .move df delay count := by
  refine ⟨rfl, ?_⟩
  intro p hp
  simp only [List.mem_cons, List.not_mem_nil, or_false] at hp
  rcases hp with rfl | rfl | rfl | rfl
  · simp [idlePins]
  · intro _ df delay count
    rw [show (cmdPins true 0x3000000000000000).cmdWord = 0x3000000000000000 from rfl, decode_status (by decide)]
    nofun
  · intro _ df delay count
    rw [show (cmdPins false 0xF800000000000004).cmdWord = 0xF800000000000004 from rfl, decode_reservedHigh (by decide)]
    nofun
  · simp [resetPins]

theorem wit_NopChangesNothing : ((cmdPins true 0x0FFFFFFFFFFFFFFF).cmdWord.extractLsb 63 60).toNat = 0 := by decide

theorem wit_ReservedSetsOnlyIll : 4 ≤ ((0x4FFFFFFFFFFFFFFF : CmdWord).extractLsb 63 60).toNat := by decide

/-- Each clause at its boundary: G-3, G-2, G-4, G-5, and Idle by the invariants. -/
theorem wit_GateCountsAndFires :
    ((vec 0 1 500 499 1 0 0 0).armed = true ∧
      (vec 0 1 500 499 1 0 0 0).period.toNat ≤ (vec 0 1 500 499 1 0 0 0).div.toNat + 1) ∧
    ((vec 0 1 500 498 1 0 0 0).armed = true ∧
      (vec 0 1 500 498 1 0 0 0).div.toNat + 1 < (vec 0 1 500 498 1 0 0 0).period.toNat) ∧
    (vec 3 0 1000 0 0 0 0 0).armed = false ∧ (vec 3 0 1000 0 0 0 0 0).Inv := ⟨by decide, by decide, by decide, wit_inv_idle⟩

theorem wit_TickStepsTowardZero :
    (vec 2 (-2147483648) 1000 0 1 1 0 0).pending ≠ 0 ∧ (vec 5 0 1000 0 1 1 0 0).pending = 0 := by decide

theorem quiet_idle (n : Nat) (b : Bool) : quiet (List.replicate n (idlePins b)) = true := by
  rw [quiet, List.all_eq_true]
  intro p hp
  rw [List.eq_of_mem_replicate hp]
  rfl

theorem strobes_idle (n : Nat) : strobes (List.replicate n (idlePins true)) = n := by
  rw [strobes, List.countP_eq_length.mpr ?_, List.length_replicate]
  intro p hp
  rw [List.eq_of_mem_replicate hp]
  rfl

/-- One strobe short of the least period. -/
theorem wit_TickComesOnThePeriodthStrobe :
    (vec 0 4 500 0 1 0 0 0).armed = true ∧ (vec 0 4 500 0 1 0 0 0).div = 0 ∧ 500 ≤ (vec 0 4 500 0 1 0 0 0).period.toNat ∧
    quiet (List.replicate 499 (idlePins true)) = true ∧
    strobes (List.replicate 499 (idlePins true)) < (vec 0 4 500 0 1 0 0 0).period.toNat := by
  refine ⟨rfl, rfl, by decide, ?_, ?_⟩
  · exact quiet_idle 499 true
  · rw [strobes_idle]; decide

/-- A MOVE with count ≠ 0 in a cycle (PeriodIsWrittenOnlyByMove), and one that overflows (FlagsStickUntilReset). -/
theorem wit_step_move :
    step ((vec 0 0 1000 0 0 0 0 0).placePins (cmdPins false 0x100001F500000001)) = .next (vec 0 1 501 0 1 0 0 0) ∧
    step ((vec 0 2147483647 1000 5 1 0 0 0).placePins (cmdPins false 0x1800000000000001)) =
      .next (vec 0 2147483647 1000 5 1 0 1 0) ∧
    step ((vec 2 3 1000 17 1 1 0 0).placePins (cmdPins false 0x4000000000000000)) = .next (vec 2 3 1000 17 1 1 0 1) :=
  ⟨rfl, rfl, rfl⟩

/-- PeriodIsWrittenOnlyByMove at the end of the range: the tick of the cycle leaves 2^31 - 2, so `MOVE 1` is accepted. -/
theorem wit_PeriodIsWrittenOnlyByMove :
    step ((vec 2 2147483647 1000 999 1 1 0 0).placePins (cmdPins true 0x100001F500000001)) =
      .next (vec 3 2147483647 501 0 1 1 0 0) ∧
    gateFires true (vec 2 2147483647 1000 999 1 1 0 0) = true ∧
    (vec 2 2147483647 1000 999 1 1 0 0).pending.toInt - 1 + 1 = 2 ^ 31 - 1 ∧
    decode 0x100001F500000001 = .move false 501 1 := ⟨rfl, by decide, by decide, by decide⟩

/-- A STATUS and a STOP in a cycle (ErrorFlagsSteerNothing, OnlyStopAndStatusRespond). -/
theorem wit_step_status :
    step ((vec 7 1 1000 0 1 1 1 1).placePins (cmdPins false 0x3000000000000000)) =
      .next { vec 7 1 1000 0 1 1 1 1 with rspValid := true, rspData := 0xFF } ∧
    step ((vec 0 9 1000 7 1 0 0 0).placePins (cmdPins false 0x2000000000000000)) =
      .next { vec 0 0 1000 0 0 0 0 0 with rspValid := true, rspData := 9 } := ⟨rfl, rfl⟩

/-- EveryCycleKeepsTheInvariants: a state with the invariants, and a reset cycle from a state without them. -/
theorem wit_EveryCycleKeepsTheInvariants :
    (vec 4 0 500 499 1 1 0 0).Inv ∧ step ((vec 4 0 500 499 1 1 0 0).placePins (idlePins true)) = .next (vec 4 0 500 0 0 0 0 0) ∧
    ((vec 0 5 3 9 0 1 0 0).placePins resetPins).pins.rst = true := ⟨wit_inv_dwell, rfl, rfl⟩

theorem wit_StatesFallIntoFourClasses :
    ((vec 3 0 1000 0 0 0 0 0).Inv ∧ (vec 3 0 1000 0 0 0 0 0).OutputsLatched) ∧
    ((vec 0 4 500 499 1 0 0 0).Inv ∧ (vec 0 4 500 499 1 0 0 0).OutputsLatched) ∧
    ((vec 5 (-2) 1000 999 1 1 0 0).Inv ∧ (vec 5 (-2) 1000 999 1 1 0 0).OutputsLatched) ∧
    ((vec 4 0 500 499 1 1 0 0).Inv ∧ (vec 4 0 500 499 1 1 0 0).OutputsLatched) :=
  ⟨⟨wit_inv_idle, wit_latched_idle⟩, ⟨wit_inv_armed, wit_latched_armed⟩, ⟨wit_inv_stepping, wit_latched_stepping⟩,
    ⟨wit_inv_dwell, wit_latched_dwell⟩⟩

/-- Each event, from a state with the invariants. -/
theorem wit_ClassTransitionsFollowTheTable :
    (vec 5 (-2) 1000 999 1 1 0 0).Inv ∧ (applyEvent .tick (vec 5 (-2) 1000 999 1 1 0 0)).isSome = true ∧
    (applyEvent .reset (vec 5 (-2) 1000 999 1 1 0 0)).isSome = true ∧
    (applyEvent (.cmd 0x1800000000000002) (vec 5 (-2) 1000 999 1 1 0 0)).isSome = true ∧
    (applyEvent (.cmd 0x2000000000000000) (vec 5 (-2) 1000 999 1 1 0 0)).isSome = true :=
  ⟨wit_inv_stepping, by decide, by decide, by decide, by decide⟩

theorem wit_MovesAccumulate :
    ∀ k, k ≤ [(true, 0, 5), (false, 700, (-2 : Int))].length →
      -2 ^ 31 ≤ (vec 0 0 1000 0 0 0 0 0).pending.toInt +
        (([(true, 0, 5), (false, 700, (-2 : Int))].take k).map fun m => m.2.2).sum ∧
      (vec 0 0 1000 0 0 0 0 0).pending.toInt +
        (([(true, 0, 5), (false, 700, (-2 : Int))].take k).map fun m => m.2.2).sum ≤ 2 ^ 31 - 1 := by
  intro k hk
  have h : k = 0 ∨ k = 1 ∨ k = 2 := by simp at hk; omega
  rcases h with rfl | rfl | rfl <;> decide

/-- The source's scenario W11 up to its second MOVE, and a STOP. -/
theorem wit_DisplacementLaw :
    Event.reset ∉ [.cmd 0x1800000000000005, .tick, .tick, .cmd 0x1800000000000002, .cmd 0x2000000000000000] ∧
    runEvents [.cmd 0x1800000000000005, .tick, .tick, .cmd 0x1800000000000002, .cmd 0x2000000000000000]
      (vec 0 0 1000 0 0 0 0 0) = some { vec 2 0 1000 0 0 0 0 0 with rspValid := true, rspData := 5 } := by decide

theorem wit_TicksRunToIdle :
    (vec 0 (-3) 500 0 1 0 0 0).armed = true ∧ 1 ≤ 3 ∧ 3 ≤ (vec 0 (-3) 500 0 1 0 0 0).pending.toInt.natAbs := by decide

/-- Both clauses: in the terminal dwell with one strobe to go, with and without that strobe. -/
theorem wit_MotionEndsOnTime :
    (vec 4 0 500 499 1 1 0 0).Inv ∧ (vec 4 0 500 499 1 1 0 0).armed = true ∧ quiet [idlePins true] = true ∧
    ((vec 4 0 500 499 1 1 0 0).pending.toInt.natAbs + 1) * (vec 4 0 500 499 1 1 0 0).period.toNat ≤
      (vec 4 0 500 499 1 1 0 0).div.toNat + strobes [idlePins true] ∧
    quiet [idlePins false] = true ∧
    (vec 4 0 500 499 1 1 0 0).div.toNat + strobes [idlePins false] <
      ((vec 4 0 500 499 1 1 0 0).pending.toInt.natAbs + 1) * (vec 4 0 500 499 1 1 0 0).period.toNat :=
  ⟨wit_inv_dwell, by decide, by decide, by decide, by decide, by decide⟩

/-- A round of the spec's starvation vector: `MOVE 1, 500` and a gap of 399 strobes. -/
def starvingRound : MoveRound := { refTick := true, word := 0x100001F400000001, gap := List.replicate 399 (idlePins true) }

theorem keeps_idle (n : Nat) : (List.replicate n (idlePins true)).all keepsSchedule = true := by
  rw [List.all_eq_true]
  intro p hp
  rw [List.eq_of_mem_replicate hp]
  rfl

/-- The spec's starvation vector, eight rounds from reset. -/
theorem wit_RearmingStarvesTheGate :
    List.replicate 8 starvingRound ≠ [] ∧ gateFires true (vec 0 0 1000 0 0 0 0 0) = false ∧
    (∀ m ∈ List.replicate 8 starvingRound, m.gap.all keepsSchedule = true ∧ ∃ df delay count,
      decode m.word = .move df delay count ∧ count ≠ 0 ∧
      strobes m.gap + 1 < if df = true then 1000 else max 500 delay) ∧
    ∀ k, 1 ≤ k → k ≤ (List.replicate 8 starvingRound).length →
      (vec 0 0 1000 0 0 0 0 0).pending.toInt + roundCounts ((List.replicate 8 starvingRound).take k) ≠ 0 ∧
      -2 ^ 31 ≤ (vec 0 0 1000 0 0 0 0 0).pending.toInt + roundCounts ((List.replicate 8 starvingRound).take k) ∧
      (vec 0 0 1000 0 0 0 0 0).pending.toInt + roundCounts ((List.replicate 8 starvingRound).take k) ≤ 2 ^ 31 - 1 := by
  refine ⟨nofun, by decide, ?_, ?_⟩
  · intro m hm
    rw [List.eq_of_mem_replicate hm]
    refine ⟨keeps_idle 399, false, 500, 1, by decide, by decide, ?_⟩
    rw [show strobes starvingRound.gap = 399 from strobes_idle 399]
    decide
  · intro k h h'
    have h8 : k ≤ 8 := h'
    interval_cases k <;> decide

/-- Rounds from the Stepping class in reverse: a reverse MOVE with DF = 1, polled with STATUS, NOP and MOVE 0, and a forward one
with DF = 0 that changes the direction. -/
def mixedRounds : List MoveRound :=
  [ { refTick := true, word := 0x18000000FFFFFFFD,
      gap := [cmdPins true 0x3000000000000000, cmdPins true 0, cmdPins false 0x1800000000000000, idlePins true] },
    { refTick := false, word := 0x100002BC00000008, gap := [] } ]

theorem wit_RearmingStarvesTheGate_mixed :
    mixedRounds ≠ [] ∧ gateFires true (vec 5 (-2) 1000 998 1 1 0 0) = false ∧
    (∀ m ∈ mixedRounds, m.gap.all keepsSchedule = true ∧ ∃ df delay count,
      decode m.word = .move df delay count ∧ count ≠ 0 ∧
      strobes m.gap + 1 < if df = true then 1000 else max 500 delay) ∧
    ∀ k, 1 ≤ k → k ≤ mixedRounds.length →
      (vec 5 (-2) 1000 998 1 1 0 0).pending.toInt + roundCounts (mixedRounds.take k) ≠ 0 ∧
      -2 ^ 31 ≤ (vec 5 (-2) 1000 998 1 1 0 0).pending.toInt + roundCounts (mixedRounds.take k) ∧
      (vec 5 (-2) 1000 998 1 1 0 0).pending.toInt + roundCounts (mixedRounds.take k) ≤ 2 ^ 31 - 1 := by
  refine ⟨nofun, by decide, ?_, ?_⟩
  · intro m hm
    simp only [mixedRounds, List.mem_cons, List.not_mem_nil, or_false] at hm
    rcases hm with rfl | rfl
    · exact ⟨by decide, true, 0, -3, by decide, by decide, by decide⟩
    · exact ⟨by decide, false, 700, 8, by decide, by decide, by decide⟩
  · intro k h h'
    have h2 : k ≤ 2 := h'
    interval_cases k <;> decide

/-- Y2: a tick and a STOP in one cycle. -/
theorem wit_EveryRunIsAnEventRun :
    runCycles [cmdPins true 0x2000000000000000] (vec 2 3 1000 999 1 1 0 0) =
      .next { vec 3 0 1000 0 0 0 0 0 with rspValid := true, rspData := 2 } ∧
    eventsOf [cmdPins true 0x2000000000000000] (vec 2 3 1000 999 1 1 0 0) = [.tick, .cmd 0x2000000000000000] :=
  ⟨rfl, by decide⟩

theorem wit_EventsIgnoreTheClock : (vec 2 3 1000 999 1 1 0 0).untimed = (vec 2 3 1000 17 1 1 0 0).untimed := by decide

/-- A reserved OP, and a MOVE that overflows, from a state without flags. -/
theorem wit_FaultModelStopsAtRecordedErrors :
    (vec 2 3 1000 17 1 1 0 0).ovf = false ∧ (vec 2 3 1000 17 1 1 0 0).ill = false ∧
    step ((vec 2 3 1000 17 1 1 0 0).placePins (cmdPins false 0x4000000000000000)) = .next (vec 2 3 1000 17 1 1 0 1) ∧
    step ((vec 0 2147483647 1000 5 1 0 0 0).placePins (cmdPins false 0x1800000000000001)) =
      .next (vec 0 2147483647 1000 5 1 0 1 0) := ⟨rfl, rfl, rfl, rfl⟩

/-- A binding that is built, one that maps two coils to one pin, and one without the reference. -/
theorem wit_ConstructRefusesBadBindings :
    bindable ⟨#v[8, 9, 10, 11], true, .forwardIsClockwise⟩ = true ∧
    (∀ i j : Fin 4, (#v[8, 9, 10, 11] : Vector Nat 4)[i] = (#v[8, 9, 10, 11] : Vector Nat 4)[j] → i = j) ∧
    (#v[8, 9, 8, 11] : Vector Nat 4)[(0 : Fin 4)] = (#v[8, 9, 8, 11] : Vector Nat 4)[(2 : Fin 4)] ∧
    bindable ⟨#v[8, 9, 10, 11], false, .forwardIsClockwise⟩ = false := by decide

theorem wit_PinsCarryTheirCoils :
    bindable ⟨#v[8, 9, 10, 11], true, .forwardIsAnticlockwise⟩ = true ∧
    ∀ i : Fin 4, (#v[8, 9, 10, 11] : Vector Nat 4)[i] ≠ 12 := by decide

theorem wit_InstancesShareNothing : [State.reset, vec 2 3 1000 17 1 1 0 0][1]? = some (vec 2 3 1000 17 1 1 0 0) := by decide

end Sys2Proof.Tests
end

namespace Sys2Proof.Machine

/-! SUPPORT. One step, said once: a reset, or the gate and the tick step followed by a command. -/

/-- The command of a cycle: a cycle without one does what a NOP does (R113, R115). -/
def commandOf (p : Pins) : Instr := if p.cmdValid then decode p.cmdWord else .nop

theorem commandOf_valid {p : Pins} (h : p.cmdValid = true) : commandOf p = decode p.cmdWord := if_pos h

theorem commandOf_invalid {p : Pins} (h : p.cmdValid = false) : commandOf p = .nop := by simp [commandOf, h]

/-- A command other than NOP stands on the command port (R30). -/
theorem commandOf_eq_iff {p : Pins} {i : Instr} (hi : i ≠ .nop) :
    commandOf p = i ↔ p.cmdValid = true ∧ decode p.cmdWord = i := by
  cases h : p.cmdValid with
  | false => simp [commandOf_invalid h, hi.symm]
  | true => simp [commandOf_valid h]

/-- The command of a cycle has the operands of a word: its DELAY fits the field (R73). -/
theorem commandOf_delay_lt {p : Pins} {df : Bool} {delay : Nat} {count : Int} (h : commandOf p = .move df delay count) :
    delay < 2 ^ 27 := by
  obtain ⟨-, hd⟩ := (commandOf_eq_iff (i := .move df delay count) nofun).mp h
  rcases decode_cases p.cmdWord with ⟨-, e⟩ | ⟨-, e⟩ | ⟨-, e⟩ | ⟨-, e⟩ | ⟨-, -, e⟩ | ⟨-, e⟩ <;> rw [e] at hd <;> cases hd
  exact delayField_lt _

theorem decode_eq_stop_iff (w : CmdWord) : decode w = .stop ↔ (w.extractLsb 63 60).toNat = 2 := by
  change _ ↔ opField w = 2
  rcases decode_cases w with ⟨h, e⟩ | ⟨h, e⟩ | ⟨h, e⟩ | ⟨h, e⟩ | ⟨h, -, e⟩ | ⟨h, e⟩ <;> rw [e] <;> simp <;> omega

theorem decode_eq_status_iff (w : CmdWord) : decode w = .status ↔ (w.extractLsb 63 60).toNat = 3 := by
  change _ ↔ opField w = 3
  rcases decode_cases w with ⟨h, e⟩ | ⟨h, e⟩ | ⟨h, e⟩ | ⟨h, e⟩ | ⟨h, -, e⟩ | ⟨h, e⟩ <;> rw [e] <;> simp <;> omega

theorem applyCommand_eq_exec (p : Pins) (s : State) : applyCommand p s = exec (commandOf p) s := by
  cases h : p.cmdValid with
  | false => simp [applyCommand, h, commandOf_invalid h, execNop]
  | true => simp [applyCommand, h, commandOf_valid h]

/-- The fields that GATE and TICK neither read nor write: the error flags and the response port (R29, R31). -/
def setUnread (ovf ill valid : Bool) (data : RspWord) (s : State) : State :=
  { s with ovf := ovf, ill := ill, rspValid := valid, rspData := data }

section unread
variable (ovf ill valid : Bool) (data : RspWord) (r : Bool) (s : State)

/-- TICK decides by `pending` alone, so a change of the unread fields passes through it. -/
theorem tick_setUnread : tick (setUnread ovf ill valid data s) = setUnread ovf ill valid data (tick s) :=
  (apply_ite (setUnread ovf ill valid data) (s.pending ≠ 0) (stepMotor s) (disarm s)).symm

theorem applyGate_setUnread :
    applyGate r (setUnread ovf ill valid data s) = setUnread ovf ill valid data (applyGate r s) :=
  (apply_ite (setUnread ovf ill valid data) (s.armed && r)
    { s with div := if s.period.toNat ≤ s.div.toNat + 1 then 0 else s.div + 1 } s).symm

theorem gateAndTick_setUnread :
    gateAndTick r (setUnread ovf ill valid data s) = setUnread ovf ill valid data (gateAndTick r s) := by
  unfold gateAndTick
  rw [applyGate_setUnread, tick_setUnread]
  exact (apply_ite (setUnread ovf ill valid data) (gateFires r s) (tick (applyGate r s)) (applyGate r s)).symm

@[simp] theorem gateAndTick_ovf : (gateAndTick r s).ovf = s.ovf := by
  rcases gateAndTick_cases r s with ⟨-, -, -, -, -, e⟩ | ⟨-, -, -, -, -, e⟩ | ⟨-, -, -, -, e⟩ | ⟨-, -, e⟩ <;> rw [e] <;> rfl

@[simp] theorem gateAndTick_ill : (gateAndTick r s).ill = s.ill := by
  rcases gateAndTick_cases r s with ⟨-, -, -, -, -, e⟩ | ⟨-, -, -, -, -, e⟩ | ⟨-, -, -, -, e⟩ | ⟨-, -, e⟩ <;> rw [e] <;> rfl

end unread

/-- The state that the command of the coming cycle is applied to, after GATE and TICK (R150). -/
def ticked (s : State) : State := beforeCommand s.pins.refTick s.takePins

/-- Everything a step can do (R150). -/
theorem step_cases {s t : State} (h : step s = .next t) :
    (s.pins.rst = true ∧ t = latchCoils (applyReset s.takePins)) ∨
    (s.pins.rst = false ∧ ∃ u, exec (commandOf s.pins) (ticked s) = .next u ∧ t = latchCoils u) := by
  rcases cycle_cases h with ⟨hr, e⟩ | ⟨hr, hv, e⟩ | ⟨hr, hv, u, hu, e⟩
  · exact .inl ⟨hr, e⟩
  · exact .inr ⟨hr, ticked s, by rw [commandOf_invalid hv]; rfl, e⟩
  · exact .inr ⟨hr, u, by rw [commandOf_valid hv]; exact hu, e⟩

theorem step_reset {s : State} (h : s.pins.rst = true) : step s = .next (latchCoils (applyReset s.takePins)) := cycle_reset h _

theorem step_of_exec {s u : State} (h : s.pins.rst = false) (hu : exec (commandOf s.pins) (ticked s) = .next u) :
    step s = .next (latchCoils u) := by
  rw [← applyCommand_eq_exec] at hu
  rw [step, cycle, h, if_neg Bool.false_ne_true]
  exact congrArg (andThen · _) hu

/-- The gate reads neither the response port nor the schedule. -/
@[simp] theorem gateFires_clearResponse_takePins (r : Bool) (s : State) :
    gateFires r (clearResponse s.takePins) = gateFires r s := by
  simp [gateFires]

/-- Everything the gate and the tick step of the coming cycle can do: a half-step, the terminal tick, or at most a new count in
`div` (R140, R143, R145). -/
theorem ticked_cases (s : State) :
    (gateFires s.pins.refTick s = true ∧ s.armed = true ∧ s.pending ≠ 0 ∧
      ticked s = stepMotor { clearResponse s.takePins with div := 0 }) ∨
    (gateFires s.pins.refTick s = true ∧ s.armed = true ∧ s.pending = 0 ∧ ticked s = disarm (clearResponse s.takePins)) ∨
    (gateFires s.pins.refTick s = false ∧ ∃ d, ticked s = { clearResponse s.takePins with div := d }) := by
  rw [← gateFires_clearResponse_takePins, ← takePins_armed s, ← takePins_pending s]
  rcases gateAndTick_cases s.pins.refTick (clearResponse s.takePins) with
    ⟨hf, ha, -, -, hp, e⟩ | ⟨hf, ha, -, -, hp, e⟩ | ⟨hf, -, -, -, e⟩ | ⟨hf, -, e⟩
  · exact .inl ⟨hf, ha, hp, e⟩
  · exact .inr (.inl ⟨hf, ha, hp, e⟩)
  · exact .inr (.inr ⟨hf, _, e⟩)
  · exact .inr (.inr ⟨hf, (clearResponse s.takePins).div, e⟩)

/-- The command's state in terms of the gate and the tick step alone, with the response port cleared (R31). -/
theorem ticked_eq (s : State) : ticked s = clearResponse (gateAndTick s.pins.refTick s.takePins) := by
  have h := gateAndTick_setUnread s.takePins.ovf s.takePins.ill false 0 s.pins.refTick s.takePins
  exact h.trans (by simp only [setUnread, clearResponse, gateAndTick_ovf, gateAndTick_ill])

theorem statusWord_clearResponse (s : State) : statusWord (clearResponse s) = statusWord s := rfl

@[simp] theorem ticked_rspValid (s : State) : (ticked s).rspValid = false := by rw [ticked_eq]; rfl

@[simp] theorem ticked_rspData (s : State) : (ticked s).rspData = 0 := by rw [ticked_eq]; rfl

@[simp] theorem ticked_period (s : State) : (ticked s).period = s.period := by
  rcases ticked_cases s with ⟨-, -, -, e⟩ | ⟨-, -, -, e⟩ | ⟨-, d, e⟩ <;> simp [e]

/-- A tick moves `pending` one unit toward zero, and only a tick moves it (R143, R145). -/
theorem ticked_pending_toInt (s : State) :
    (ticked s).pending.toInt =
      if gateFires s.pins.refTick s = true then s.pending.toInt - Int.sign s.pending.toInt else s.pending.toInt := by
  rcases ticked_cases s with ⟨hf, -, -, e⟩ | ⟨hf, -, hp, e⟩ | ⟨hf, d, e⟩
  · rw [e, stepMotor_pending_toInt, if_pos hf]
    simp [direction]
  · simp [e, hp]
  · simp [e, hf]

/-- One half-step forward wraps from 7 to 0, as the 3-bit sum does (R23). -/
theorem phase_ofInt_add_one (p : Phase) : BitVec.ofInt 3 (p.toNat + 1) = p + 1 := by decide +revert

/-- One half-step in reverse wraps from 0 to 7 (R23). -/
theorem phase_ofInt_sub_one (p : Phase) : BitVec.ofInt 3 (p.toNat + -1) = p - 1 := by decide +revert

/-- A stepping tick with something pending forward (R23, R143). -/
theorem ticked_phase_forward {s : State} (hf : gateFires s.pins.refTick s = true) (hp : 0 < s.pending.toInt) :
    (ticked s).phase = s.phase + 1 := by
  rcases ticked_cases s with ⟨-, -, -, e⟩ | ⟨-, -, h0, -⟩ | ⟨hf', -⟩
  · have hd : direction s.pending = 1 := Int.sign_eq_one_of_pos hp
    simp [e, hd, phase_ofInt_add_one]
  · simp [h0] at hp
  · simp [hf] at hf'

/-- A stepping tick with something pending in reverse (R23, R143). -/
theorem ticked_phase_reverse {s : State} (hf : gateFires s.pins.refTick s = true) (hp : s.pending.toInt < 0) :
    (ticked s).phase = s.phase - 1 := by
  rcases ticked_cases s with ⟨-, -, -, e⟩ | ⟨-, -, h0, -⟩ | ⟨hf', -⟩
  · have hd : direction s.pending = -1 := Int.sign_eq_neg_one_of_neg hp
    simp [e, hd, phase_ofInt_sub_one]
  · simp [h0] at hp
  · simp [hf] at hf'

/-- No stepping tick, no change of phase (R23). -/
theorem ticked_phase_of_no_step {s : State} (h : gateFires s.pins.refTick s = false ∨ s.pending = 0) :
    (ticked s).phase = s.phase := by
  rcases ticked_cases s with ⟨hf, -, hp, -⟩ | ⟨-, -, -, e⟩ | ⟨-, d, e⟩
  · rcases h with h | h
    · simp [hf] at h
    · exact absurd h hp
  · simp [e]
  · simp [e]

/-- A tick that disarms turns the coils off (R28, R145). -/
theorem ticked_en_of_disarmed {s : State} (ha : s.armed = true) (ht : (ticked s).armed = false) : (ticked s).en = false := by
  rcases ticked_cases s with ⟨-, -, -, e⟩ | ⟨-, -, -, e⟩ | ⟨-, d, e⟩
  · simp [e, ha] at ht
  · simp [e]
  · simp [e, ha] at ht

/-- Only a stepping tick turns the coils on (R28). -/
theorem ticked_en_rises {s : State} (he : s.en = false) (ht : (ticked s).en = true) :
    gateFires s.pins.refTick s = true ∧ s.pending ≠ 0 := by
  rcases ticked_cases s with ⟨hf, -, hp, -⟩ | ⟨-, -, -, e⟩ | ⟨-, d, e⟩
  · exact ⟨hf, hp⟩
  · simp [e] at ht
  · simp [e, he] at ht

/-! SUPPORT. What a command leaves of each register. -/

/-- Everything a MOVE that goes on can leave (R102 to R107). -/
theorem execMove_next_cases {df : Bool} {delay : Nat} {count : Int} {s t : State}
    (h : execMove df delay count s = .next t) :
    ((s.pending.toInt + count < -2 ^ 31 ∨ 2 ^ 31 - 1 < s.pending.toInt + count) ∧ t = { s with ovf := true }) ∨
    (count = 0 ∧ s.pending = 0 ∧ t = disarm s) ∨
    (count = 0 ∧ s.pending ≠ 0 ∧ t = s) ∨
    (count ≠ 0 ∧ -2 ^ 31 ≤ s.pending.toInt + count ∧ s.pending.toInt + count ≤ 2 ^ 31 - 1 ∧
      s.pending.toInt + count ≠ 0 ∧
      t = rearm { s with period := effectivePeriod df delay, pending := stepsOf (s.pending.toInt + count) }) ∨
    (count ≠ 0 ∧ s.pending.toInt + count = 0 ∧
      t = disarm { s with period := effectivePeriod df delay, pending := 0 }) := by
  have key : ∀ u, execMove df delay count s = .next u → t = u := fun u e => by
    rw [h] at e
    exact Host.Outcome.next.inj e
  rcases execMove_cases df delay count s with ⟨ho, e⟩ | ⟨hc, hp, e⟩ | ⟨hc, hp, e⟩ | ⟨hc, hl, hu, hs, e⟩ | ⟨hc, hs, e⟩
  · exact .inl ⟨ho, key _ e⟩
  · exact .inr (.inl ⟨hc, hp, key _ e⟩)
  · exact .inr (.inr (.inl ⟨hc, hp, key _ e⟩))
  · exact .inr (.inr (.inr (.inl ⟨hc, hl, hu, hs, key _ e⟩)))
  · exact .inr (.inr (.inr (.inr ⟨hc, hs, key _ e⟩)))

/-- No command touches `phase`, the coil register or the schedule (R22, R23, R32). -/
theorem exec_frame {i : Instr} {s t : State} (h : exec i s = .next t) :
    t.phase = s.phase ∧ t.coils = s.coils ∧ t.inputs = s.inputs ∧ t.freeIndex = s.freeIndex := by
  rcases exec_cases h with ⟨-, rfl⟩ | ⟨df, delay, count, -, hm⟩ | ⟨-, rfl⟩ | ⟨-, rfl⟩ | ⟨-, rfl⟩
  · exact ⟨rfl, rfl, rfl, rfl⟩
  · rcases execMove_next_cases hm with ⟨-, rfl⟩ | ⟨-, -, rfl⟩ | ⟨-, -, rfl⟩ | ⟨-, -, -, -, rfl⟩ | ⟨-, -, rfl⟩ <;>
      exact ⟨rfl, rfl, rfl, rfl⟩
  · exact ⟨rfl, rfl, rfl, rfl⟩
  · exact ⟨rfl, rfl, rfl, rfl⟩
  · exact ⟨rfl, rfl, rfl, rfl⟩

/-- STOP and STATUS respond, each with its value, and no other command touches the response port (R31). -/
theorem exec_response_cases {i : Instr} {s t : State} (h : exec i s = .next t) :
    (i = .stop ∧ t.rspValid = true ∧ t.rspData = s.pending) ∨
    (i = .status ∧ t.rspValid = true ∧ t.rspData = statusWord s) ∨
    (i ≠ .stop ∧ i ≠ .status ∧ t.rspValid = s.rspValid ∧ t.rspData = s.rspData) := by
  rcases exec_cases h with ⟨rfl, rfl⟩ | ⟨df, delay, count, rfl, hm⟩ | ⟨rfl, rfl⟩ | ⟨rfl, rfl⟩ | ⟨hi, rfl⟩
  · exact .inr (.inr ⟨nofun, nofun, rfl, rfl⟩)
  · refine .inr (.inr ⟨nofun, nofun, ?_⟩)
    rcases execMove_next_cases hm with ⟨-, rfl⟩ | ⟨-, -, rfl⟩ | ⟨-, -, rfl⟩ | ⟨-, -, -, -, rfl⟩ | ⟨-, -, rfl⟩ <;>
      exact ⟨rfl, rfl⟩
  · exact .inl ⟨rfl, rfl, rfl⟩
  · exact .inr (.inl ⟨rfl, rfl, rfl⟩)
  · rcases hi with ⟨op, rfl⟩ | ⟨op, rfl⟩ <;> exact .inr (.inr ⟨nofun, nofun, rfl, rfl⟩)

/-- A command that is neither MOVE nor STOP leaves the motion registers (R112, R113, R114). -/
theorem exec_motion_frame {i : Instr} {s t : State} (h : exec i s = .next t) (hs : i ≠ .stop)
    (hm : ∀ df delay count, i ≠ .move df delay count) :
    t.pending = s.pending ∧ t.armed = s.armed ∧ t.en = s.en ∧ t.div = s.div := by
  rcases exec_cases h with ⟨-, rfl⟩ | ⟨df, delay, count, hi, -⟩ | ⟨hi, -⟩ | ⟨-, rfl⟩ | ⟨-, rfl⟩
  · exact ⟨rfl, rfl, rfl, rfl⟩
  · exact absurd hi (hm df delay count)
  · exact absurd hi hs
  · exact ⟨rfl, rfl, rfl, rfl⟩
  · exact ⟨rfl, rfl, rfl, rfl⟩

/-- A MOVE in range adds its count to `pending`, and one out of range leaves it (R24, R102, R104). -/
theorem execMove_pending_toInt {df : Bool} {delay : Nat} {count : Int} {s t : State}
    (h : execMove df delay count s = .next t) :
    t.pending.toInt =
      if -2 ^ 31 ≤ s.pending.toInt + count ∧ s.pending.toInt + count ≤ 2 ^ 31 - 1 then s.pending.toInt + count
      else s.pending.toInt := by
  rcases execMove_next_cases h with ⟨ho, rfl⟩ | ⟨rfl, -, rfl⟩ | ⟨rfl, -, rfl⟩ | ⟨-, hl, hu, -, rfl⟩ | ⟨-, hs, rfl⟩
  · exact (if_neg (by omega)).symm
  · simp
  · simp
  · rw [if_pos ⟨hl, hu⟩]
    exact toInt_stepsOf hl hu
  · simp [hs]

/-- An accepted MOVE with count ≠ 0 writes the effective period (R25, R103). -/
theorem execMove_period {df : Bool} {delay : Nat} {count : Int} {s t : State} (h : execMove df delay count s = .next t)
    (hc : count ≠ 0) (hl : -2 ^ 31 ≤ s.pending.toInt + count) (hu : s.pending.toInt + count ≤ 2 ^ 31 - 1) :
    t.period = effectivePeriod df delay := by
  rcases execMove_next_cases h with ⟨ho, -⟩ | ⟨h0, -⟩ | ⟨h0, -⟩ | ⟨-, -, -, -, rfl⟩ | ⟨-, -, rfl⟩
  · omega
  · exact absurd h0 hc
  · exact absurd h0 hc
  · rfl
  · rfl

/-- Only an accepted MOVE with count ≠ 0 changes `period` (R25). -/
theorem exec_period_changes {i : Instr} {s t : State} (h : exec i s = .next t) (hp : t.period ≠ s.period) :
    ∃ df delay count, i = .move df delay count ∧ count ≠ 0 ∧ -2 ^ 31 ≤ s.pending.toInt + count ∧
      s.pending.toInt + count ≤ 2 ^ 31 - 1 := by
  rcases exec_cases h with ⟨-, rfl⟩ | ⟨df, delay, count, rfl, hm⟩ | ⟨-, rfl⟩ | ⟨-, rfl⟩ | ⟨-, rfl⟩
  · exact absurd rfl hp
  · rcases execMove_next_cases hm with ⟨-, rfl⟩ | ⟨-, -, rfl⟩ | ⟨-, -, rfl⟩ | ⟨hc, hl, hu, -⟩ | ⟨hc, hs, -⟩
    · exact absurd rfl hp
    · exact absurd rfl hp
    · exact absurd rfl hp
    · exact ⟨df, delay, count, rfl, hc, hl, hu⟩
    · exact ⟨df, delay, count, rfl, hc, by omega, by omega⟩
  · exact absurd rfl hp
  · exact absurd rfl hp
  · exact absurd rfl hp

/-- A command disarms and turns the coils off together, or leaves `en` alone and disarms nothing (R27, R28). -/
theorem exec_en_cases {i : Instr} {s t : State} (h : exec i s = .next t) :
    (t.armed = false ∧ t.en = false) ∨ (t.en = s.en ∧ (t.armed = false → s.armed = false)) := by
  rcases exec_cases h with ⟨-, rfl⟩ | ⟨df, delay, count, -, hm⟩ | ⟨-, rfl⟩ | ⟨-, rfl⟩ | ⟨-, rfl⟩
  · exact .inr ⟨rfl, id⟩
  · rcases execMove_next_cases hm with ⟨-, rfl⟩ | ⟨-, -, rfl⟩ | ⟨-, -, rfl⟩ | ⟨-, -, -, -, rfl⟩ | ⟨-, -, rfl⟩
    · exact .inr ⟨rfl, id⟩
    · exact .inl ⟨rfl, rfl⟩
    · exact .inr ⟨rfl, id⟩
    · exact .inr ⟨rfl, nofun⟩
    · exact .inl ⟨rfl, rfl⟩
  · exact .inl ⟨rfl, rfl⟩
  · exact .inr ⟨rfl, id⟩
  · exact .inr ⟨rfl, id⟩

/-! SUPPORT. The invariants of R36. -/

/-- The invariants speak of five registers only. -/
theorem State.Inv.of_registers_eq {s t : State} (h : s.Inv) (hp : t.pending = s.pending) (ha : t.armed = s.armed)
    (he : t.en = s.en) (hd : t.div = s.div) (hper : t.period = s.period) : t.Inv := by
  obtain ⟨h2, h3, h4, h5, h6, h7⟩ := h
  constructor <;> simp only [hp, ha, he, hd, hper] <;> assumption

/-- What the invariants ask of a disarmed block. -/
theorem inv_of_disarmed {s : State} (ha : s.armed = false) (hp : s.pending = 0) (he : s.en = false) (hd : s.div = 0)
    (hper : 500 ≤ s.period.toNat) : s.Inv :=
  ⟨fun _ => hp, fun _ => he, by simp [ha], fun _ => hd, by simp [ha], hper⟩

/-- What the invariants ask of an armed block. -/
theorem inv_of_armed {s : State} (ha : s.armed = true) (he : s.pending = 0 → s.en = true)
    (hd : s.div.toNat < s.period.toNat) (hper : 500 ≤ s.period.toNat) : s.Inv :=
  ⟨by simp [ha], by simp [ha], fun _ => he, by simp [ha], fun _ => hd, hper⟩

theorem clearResponse_inv {s : State} (h : s.Inv) : (clearResponse s).Inv := h.of_registers_eq rfl rfl rfl rfl rfl

theorem latchCoils_inv {s : State} (h : s.Inv) : (latchCoils s).Inv := h.of_registers_eq rfl rfl rfl rfl rfl

theorem takePins_inv {s : State} (h : s.Inv) : s.takePins.Inv := by
  apply h.of_registers_eq <;> simp

theorem applyReset_inv (s : State) : (applyReset s).Inv := by
  apply inv_of_disarmed <;> simp

theorem disarm_inv {s : State} (hp : s.pending = 0) (hper : 500 ≤ s.period.toNat) : (disarm s).Inv :=
  inv_of_disarmed rfl hp rfl rfl hper

/-- GATE and TICK keep the invariants: a half-step leaves the coils on, the terminal tick disarms at 0, and the count stays below
the period (R36, R140, R143, R145). -/
theorem gateAndTick_inv {s : State} (h : s.Inv) (r : Bool) : (gateAndTick r s).Inv := by
  have hmin := h.period_min
  rcases gateAndTick_cases r s with ⟨-, ha, -, -, -, e⟩ | ⟨-, -, -, -, hp, e⟩ | ⟨-, ha, -, hd, e⟩ | ⟨-, -, e⟩ <;> rw [e]
  · exact inv_of_armed ha (fun _ => rfl) (Nat.zero_lt_of_lt hmin) hmin
  · exact disarm_inv hp hmin
  · exact inv_of_armed ha (h.dwell_energized ha) ((div_succ_toNat hd).trans_lt hd) hmin
  · exact h

/-- A command with the operands of a word keeps the invariants (R36). -/
theorem exec_inv {i : Instr} {s t : State} (hi : ∀ df delay count, i = .move df delay count → delay < 2 ^ 27) (hs : s.Inv)
    (h : exec i s = .next t) : t.Inv := by
  have hmin := hs.period_min
  rcases exec_cases h with ⟨-, rfl⟩ | ⟨df, delay, count, hm, he⟩ | ⟨-, rfl⟩ | ⟨-, rfl⟩ | ⟨-, rfl⟩
  · exact hs
  · have heff := effectivePeriod_min (hi df delay count hm) df
    rcases execMove_next_cases he with ⟨-, rfl⟩ | ⟨-, hp, rfl⟩ | ⟨-, -, rfl⟩ | ⟨-, hl, hu, hne, rfl⟩ | ⟨-, -, rfl⟩
    · exact hs.of_registers_eq rfl rfl rfl rfl rfl
    · exact disarm_inv hp hmin
    · exact hs
    · refine inv_of_armed rfl (fun h0 => absurd ?_ hne) ?_ heff
      · exact (toInt_stepsOf hl hu).symm.trans ((pending_eq_zero_iff _).mp h0)
      · exact Nat.zero_lt_of_lt heff
    · exact disarm_inv rfl heff
  · exact disarm_inv rfl hmin
  · exact hs.of_registers_eq rfl rfl rfl rfl rfl
  · exact hs.of_registers_eq rfl rfl rfl rfl rfl

theorem ticked_inv {s : State} (h : s.Inv) : (ticked s).Inv := gateAndTick_inv (clearResponse_inv (takePins_inv h)) _

/-! SUPPORT. Two runs that differ in the error flags alone (R29). -/

/-- Two responses that agree in every bit but OVF and ILL (R34). -/
def AgreeOutsideFlagBits (v v' : RspWord) : Prop :=
  v'.extractLsb 5 0 = v.extractLsb 5 0 ∧ v'.extractLsb 31 8 = v.extractLsb 31 8

/-- The status word shows the flags in bits 7:6 alone (R34). -/
theorem statusWord_setUnread (ovf ill valid : Bool) (data : RspWord) (s : State) :
    AgreeOutsideFlagBits (statusWord s) (statusWord (setUnread ovf ill valid data s)) := by
  constructor
  · apply BitVec.eq_of_getLsbD_eq
    intro i hi
    have h7 : 0 + i < 1 + (3 + (1 + (1 + 1))) := by omega
    have h6 : 0 + i < 3 + (1 + (1 + 1)) := by omega
    simp only [statusWord, setUnread, running, BitVec.getLsbD_extractLsb, BitVec.getLsbD_setWidth, BitVec.getLsbD_append,
      h7, h6, if_true]
  · apply BitVec.eq_of_getLsbD_eq
    intro i hi
    have h7 : ¬ 8 + i < 1 + (3 + (1 + (1 + 1))) := by omega
    have h1 : 1 ≤ 8 + i - (1 + (3 + (1 + (1 + 1)))) := by omega
    simp only [statusWord, setUnread, BitVec.getLsbD_extractLsb, BitVec.getLsbD_setWidth, BitVec.getLsbD_append, h7, if_false,
      BitVec.getLsbD_of_ge _ _ h1]

section unreadByCommands
variable (ovf ill valid : Bool) (data : RspWord) (s : State)

theorem moveNothing_setUnread :
    moveNothing (setUnread ovf ill valid data s) = setUnread ovf ill valid data (moveNothing s) :=
  (apply_ite (setUnread ovf ill valid data) (s.pending = 0) (disarm s) s).symm

theorem acceptMove_setUnread (df : Bool) (delay : Nat) (count : Int) :
    acceptMove df delay count (setUnread ovf ill valid data s) = setUnread ovf ill valid data (acceptMove df delay count s) :=
  (apply_ite (setUnread ovf ill valid data) (exactSum s.pending count ≠ 0)
    (rearm { s with period := effectivePeriod df delay, pending := stepsOf (exactSum s.pending count) })
    (disarm { s with period := effectivePeriod df delay, pending := stepsOf (exactSum s.pending count) })).symm

/-- A MOVE reads neither the flags nor the response port, and of them writes `ovf` alone (R29, R104). -/
theorem execMove_setUnread {df : Bool} {delay : Nat} {count : Int} {t : State} (h : execMove df delay count s = .next t) :
    ∃ ovf', execMove df delay count (setUnread ovf ill valid data s) = .next (setUnread ovf' ill valid data t) := by
  have hsum : (setUnread ovf ill valid data s).pending = s.pending := rfl
  unfold execMove at h ⊢
  obtain rfl := Host.Outcome.next.inj h
  rw [hsum, moveNothing_setUnread, acceptMove_setUnread]
  split_ifs
  · exact ⟨ovf, rfl⟩
  · exact ⟨ovf, rfl⟩
  · exact ⟨true, rfl⟩

theorem takePins_setUnread : (setUnread ovf ill valid data s).takePins = setUnread ovf ill valid data s.takePins := by
  cases h : s.inputs <;> simp [State.takePins, setUnread, h]

theorem applyReset_takePins_setUnread :
    applyReset (setUnread ovf ill valid data s).takePins = applyReset s.takePins := by
  rw [takePins_setUnread]
  rfl

/-- The tick step does not read the flags (R29). -/
theorem ticked_setUnread : ticked (setUnread ovf ill valid data s) = setUnread ovf ill false 0 (ticked s) := by
  have h := gateAndTick_setUnread ovf ill false 0 s.pins.refTick (clearResponse s.takePins)
  rw [ticked, takePins_setUnread]
  exact h

end unreadByCommands

/-- No command reads the flags, but that STATUS shows them in bits 7:6 (R29, R34). -/
theorem exec_setUnread {i : Instr} {s t : State} (h : exec i s = .next t) (ovf ill : Bool) :
    ∃ ovf' ill' data, exec i (setUnread ovf ill s.rspValid s.rspData s) = .next (setUnread ovf' ill' t.rspValid data t) ∧
      AgreeOutsideFlagBits t.rspData data ∧ (i ≠ .status → data = t.rspData) := by
  rcases exec_cases h with ⟨rfl, rfl⟩ | ⟨df, delay, count, rfl, hm⟩ | ⟨rfl, rfl⟩ | ⟨rfl, rfl⟩ | ⟨hi, rfl⟩
  · exact ⟨ovf, ill, t.rspData, rfl, ⟨rfl, rfl⟩, fun _ => rfl⟩
  · obtain ⟨ovf', he⟩ := execMove_setUnread ovf ill s.rspValid s.rspData s hm
    rcases exec_response_cases h with ⟨hi, -⟩ | ⟨hi, -⟩ | ⟨-, -, hv, hd⟩
    · cases hi
    · cases hi
    · rw [hv, hd]
      exact ⟨ovf', ill, s.rspData, he, ⟨rfl, rfl⟩, fun _ => rfl⟩
  · exact ⟨ovf, ill, s.pending, rfl, ⟨rfl, rfl⟩, fun _ => rfl⟩
  · exact ⟨ovf, ill, _, rfl, statusWord_setUnread ovf ill s.rspValid s.rspData s, fun hi => absurd rfl hi⟩
  · rcases hi with ⟨op, rfl⟩ | ⟨op, rfl⟩ <;> exact ⟨ovf, true, s.rspData, rfl, ⟨rfl, rfl⟩, fun _ => rfl⟩

/-! SUPPORT. Physical pins (R203). -/

/-- A coil's pin stands in an injective PIN_MAP at that coil's place and nowhere before it (R203). -/
theorem idxOf?_pinMap {b : InstanceParams} (h : bindable b = true) (i : Fin 4) :
    b.pinMap.toList.idxOf? b.pinMap[i] = some i.val := by
  have hn : b.pinMap.toList.Nodup := by
    simp only [bindable, Bool.and_eq_true, decide_eq_true_eq] at h
    exact h.1
  rw [List.idxOf?_eq_some_iff]
  refine ⟨by simp, by simp, fun j hj he => ?_⟩
  have heq : j = i.val := (hn.getElem_inj_iff (hj := by simp)).mp (he.trans (by simp))
  omega

/-! PROOFS. State, registers and invariants (spec/10_state.md). -/

/-- Settles O44: each stage of a cycle keeps the invariants, and RESET sets them up from any state. -/
theorem everyCycleKeepsTheInvariants : Obligations.EveryCycleKeepsTheInvariants := by
  intro s t hs h
  rcases step_cases h with ⟨-, rfl⟩ | ⟨hr, u, hu, rfl⟩
  · exact latchCoils_inv (applyReset_inv _)
  · have hinv : s.Inv := hs.resolve_right (by simp [hr])
    exact latchCoils_inv (exec_inv (fun _ _ _ => commandOf_delay_lt) (ticked_inv hinv) hu)

/-- Settles O33: the port was cleared before the command, and the command's own response is what is left on it. -/
theorem onlyStopAndStatusRespond : Obligations.OnlyStopAndStatusRespond := by
  intro s t h
  rcases step_cases h with ⟨hr, rfl⟩ | ⟨hr, u, hu, rfl⟩
  · simp [hr]
  · rw [← decode_eq_stop_iff, ← decode_eq_status_iff]
    rcases exec_response_cases hu with ⟨hi, hv, hd⟩ | ⟨hi, hv, hd⟩ | ⟨hi, hi', hv, hd⟩
    · obtain ⟨hc, hdec⟩ := (commandOf_eq_iff (i := .stop) nofun).mp hi
      refine ⟨by simp [hr, hc, hdec, hv], by simp [hv], ?_⟩
      rintro - _ rfl
      exact ⟨fun _ => by rw [latchCoils_rspData, hd, ticked_eq, clearResponse_pending], by simp [hdec]⟩
    · obtain ⟨hc, hdec⟩ := (commandOf_eq_iff (i := .status) nofun).mp hi
      refine ⟨by simp [hr, hc, hdec, hv], by simp [hv], ?_⟩
      rintro - _ rfl
      exact ⟨by simp [hdec], fun _ => by rw [latchCoils_rspData, hd, ticked_eq, statusWord_clearResponse]⟩
    · have hv' : u.rspValid = false := hv.trans (ticked_rspValid s)
      refine ⟨iff_of_false (by simp [hv']) ?_, fun _ => hd.trans (ticked_rspData s), by simp [hv']⟩
      rintro ⟨-, hc, hdec | hdec⟩
      · exact hi ((commandOf_valid hc).trans hdec)
      · exact hi' ((commandOf_valid hc).trans hdec)

/-- Settles O35: no command writes `phase`, so a step leaves what the tick step left. -/
theorem phaseMovesOnlyByTicks : Obligations.PhaseMovesOnlyByTicks := by
  intro s t h
  rcases step_cases h with ⟨hr, rfl⟩ | ⟨hr, u, hu, rfl⟩
  · simp [hr]
  · have hphase : (latchCoils u).phase = (ticked s).phase := (exec_frame hu).1
    rw [hphase]
    exact ⟨by simp [hr], fun _ => ticked_phase_forward, fun _ => ticked_phase_reverse, fun _ => ticked_phase_of_no_step⟩

/-- Settles O36: the tick step leaves the value `m`, and MOVE and STOP are the only commands that write over it. -/
theorem pendingHasFourWriters : Obligations.PendingHasFourWriters := by
  intro s t h
  rcases step_cases h with ⟨hr, rfl⟩ | ⟨hr, u, hu, rfl⟩
  · simp [hr]
  · refine ⟨by simp [hr], fun _ m hm => ?_⟩
    rw [← ticked_pending_toInt] at hm
    subst hm
    rw [latchCoils_pending]
    cases hv : s.pins.cmdValid with
    | false =>
      rw [commandOf_invalid hv] at hu
      simp [(exec_motion_frame hu nofun nofun).1]
    | true =>
      rw [commandOf_valid hv] at hu
      rw [if_pos rfl]
      generalize decode s.pins.cmdWord = i at hu ⊢
      cases i with
      | move df delay count => exact execMove_pending_toInt hu
      | stop =>
        obtain rfl := Host.Outcome.next.inj hu
        rfl
      | nop => rw [(exec_motion_frame hu nofun nofun).1]
      | status => rw [(exec_motion_frame hu nofun nofun).1]
      | reservedLow op => rw [(exec_motion_frame hu nofun nofun).1]
      | reservedHigh op => rw [(exec_motion_frame hu nofun nofun).1]

/-- Settles O37: of all stages of a cycle but RESET only an accepted MOVE writes `period`. -/
theorem periodIsWrittenOnlyByMove : Obligations.PeriodIsWrittenOnlyByMove := by
  intro s t h
  rcases step_cases h with ⟨hr, rfl⟩ | ⟨hr, u, hu, rfl⟩
  · simp [hr]
  · refine ⟨by simp [hr], fun _ m hm => ?_⟩
    rw [← ticked_pending_toInt] at hm
    subst hm
    refine ⟨fun df delay count hv hd hc hl hu' => ?_, fun hp => ?_⟩
    · have hi : commandOf s.pins = .move df delay count := (commandOf_valid hv).trans hd
      rw [hi] at hu
      rw [latchCoils_period, execMove_period hu hc hl hu']
      exact effectivePeriod_toNat (commandOf_delay_lt hi) df
    · rw [latchCoils_period, ← ticked_period s] at hp
      obtain ⟨df, delay, count, hi, hc, hl, hu'⟩ := exec_period_changes hu hp
      obtain ⟨hv, hd⟩ := (commandOf_eq_iff (i := .move df delay count) nofun).mp hi
      exact ⟨df, delay, count, hv, hd, hc, hl, hu'⟩

/-- Settles O38: what turns the coils off does so with the disarm, and what turns them on is the tick step. -/
theorem coilsGoOnOnlyAtSteppingTicks : Obligations.CoilsGoOnOnlyAtSteppingTicks := by
  intro s t h
  rcases step_cases h with ⟨hr, rfl⟩ | ⟨hr, u, hu, rfl⟩
  · simp
  · simp only [latchCoils_armed, latchCoils_en, latchCoils_coils, latchCoils_phase]
    refine ⟨fun ha ht => ?_, fun he ht => ?_⟩
    · have hoff : u.en = false := by
        rcases exec_en_cases hu with ⟨-, hen⟩ | ⟨hen, harm⟩
        · exact hen
        · rw [hen, ticked_en_of_disarmed ha (harm ht)]
      simp [hoff]
    · have hon : (ticked s).en = true := by
        rcases exec_en_cases hu with ⟨-, hen⟩ | ⟨hen, -⟩
        · simp [hen] at ht
        · rw [← hen, ht]
      obtain ⟨hf, hp⟩ := ticked_en_rises he hon
      exact ⟨hr, hf, hp, by rw [ht, mux_on]⟩

/-- Settles O40: the two runs stay equal outside the unread fields stage by stage. -/
theorem errorFlagsSteerNothing : Obligations.ErrorFlagsSteerNothing := by
  intro s t a b h
  have hticked : ticked { s with ovf := a, ill := b } = setUnread a b (ticked s).rspValid (ticked s).rspData (ticked s) := by
    rw [ticked_rspValid, ticked_rspData]
    exact ticked_setUnread a b s.rspValid s.rspData s
  rcases step_cases h with ⟨hr, rfl⟩ | ⟨hr, u, hu, rfl⟩
  · have hreset := applyReset_takePins_setUnread a b s.rspValid s.rspData s
    refine ⟨latchCoils (applyReset s.takePins), ?_, rfl, rfl, rfl, fun _ => rfl⟩
    rw [← hreset]
    exact step_reset hr
  · obtain ⟨ovf', ill', data, he, ⟨hlow, hhigh⟩, hsame⟩ := exec_setUnread hu a b
    rw [← hticked] at he
    refine ⟨_, step_of_exec hr he, rfl, hlow, hhigh, fun hn => hsame fun hi => hn ?_⟩
    exact (commandOf_eq_iff (i := .status) nofun).mp hi

/-- Settles O58: a pin drives the coil at its place in PIN_MAP. -/
theorem pinsCarryTheirCoils : Obligations.PinsCarryTheirCoils := by
  intro b s h
  refine ⟨fun i => by rw [pinLevel, idxOf?_pinMap h]; rfl, fun n hn => ?_⟩
  have habsent : n ∉ b.pinMap.toList := by
    intro hmem
    obtain ⟨i, hi, he⟩ := List.mem_iff_getElem.mp hmem
    exact hn ⟨i, by simpa using hi⟩ (by simpa using he)
  rw [pinLevel, List.idxOf?_eq_none_iff.mpr habsent]
  rfl

/-- Settles O26, from the frame of the commands and the two registers that only some of them write. -/
theorem commandsLeaveTheRestUnchanged : Obligations.CommandsLeaveTheRestUnchanged := by
  intro i s t h
  obtain ⟨hphase, hcoils, hinputs, hfree⟩ := exec_frame h
  refine ⟨hphase, hcoils, hinputs, hfree, fun hc => ?_, fun hs hq => ?_, exec_motion_frame h⟩
  · by_contra hp
    obtain ⟨df, delay, count, hi, hne, -, -⟩ := exec_period_changes h hp
    exact hne (hc df delay count hi)
  · rcases exec_response_cases h with ⟨hi, -⟩ | ⟨hi, -⟩ | ⟨-, -, hr⟩
    · exact absurd hi hs
    · exact absurd hi hq
    · exact hr

/-- Settles O43: the reset state is disarmed with nothing pending. -/
theorem resetStateMeetsTheInvariants : Obligations.ResetStateMeetsTheInvariants :=
  ⟨inv_of_disarmed rfl rfl rfl rfl (by decide), ⟨rfl, fun _ => rfl⟩, rfl⟩

/-- Settles O45: the coils are latched last, and a command without a response leaves the port as it was cleared. -/
theorem everyCycleLatchesTheOutputs : Obligations.EveryCycleLatchesTheOutputs := by
  intro s t h
  rcases step_cases h with ⟨hr, rfl⟩ | ⟨hr, u, hu, rfl⟩
  · exact ⟨rfl, fun _ => rfl⟩
  · refine ⟨rfl, fun hv => ?_⟩
    rw [latchCoils_rspValid] at hv
    rcases exec_response_cases hu with ⟨-, hv', -⟩ | ⟨-, hv', -⟩ | ⟨-, -, -, hd⟩
    · simp [hv] at hv'
    · simp [hv] at hv'
    · exact hd.trans (ticked_rspData s)

/-- Settles O46: `armed`, `en` and `pending` have eight combinations, and the invariants leave four. -/
theorem statesFallIntoFourClasses : Obligations.StatesFallIntoFourClasses := by
  intro s hi ho
  have hc := ho.coils_mux
  cases ha : s.armed with
  | false =>
    have he := hi.disarmed_off ha
    have hp := hi.disarmed_idle ha
    refine .inl ⟨?_, rfl, he, hp, by rw [hc, he, mux_off]⟩
    simp [State.classOf, ha, he, hp]
  | true =>
    by_cases hp : s.pending = 0
    · have he := hi.dwell_energized ha hp
      refine .inr (.inr (.inr ⟨?_, rfl, he, hp, by rw [hc, he, mux_on]⟩))
      simp [State.classOf, ha, he, hp]
    · have hp' : (s.pending == 0) = false := beq_false_of_ne hp
      cases he : s.en with
      | false =>
        refine .inr (.inl ⟨?_, rfl, rfl, hp, by rw [hc, he, mux_off]⟩)
        rw [State.classOf, ha, he, hp']
      | true =>
        refine .inr (.inr (.inl ⟨?_, rfl, rfl, hp, by rw [hc, he, mux_on]⟩))
        rw [State.classOf, ha, he, hp']

end Sys2Proof.Machine

namespace Sys2Proof.Machine

/-! SUPPORT. Runs of commands, one command at a time. -/

/-- The first command goes on, and the rest of the run starts in the state it leaves (R57). -/
theorem runCommands_cons {i : Instr} {s t : State} (h : exec i s = .next t) (is : List Instr) :
    runCommands (i :: is) s = runCommands is t := by
  rw [runCommands, h, andThen_next]

/-- A MOVE whose exact sum fits sets no flag (R102, R178). -/
theorem execMove_flags_of_fits {df : Bool} {delay : Nat} {count : Int} {s t : State}
    (h : execMove df delay count s = .next t)
    (hf : -2 ^ 31 ≤ s.pending.toInt + count ∧ s.pending.toInt + count ≤ 2 ^ 31 - 1) :
    t.ovf = s.ovf ∧ t.ill = s.ill := by
  rcases execMove_next_cases h with ⟨ho, -⟩ | ⟨-, -, rfl⟩ | ⟨-, -, rfl⟩ | ⟨-, -, -, -, rfl⟩ | ⟨-, -, rfl⟩
  · omega
  all_goals exact ⟨rfl, rfl⟩

/-- Settles O48, by induction on the MOVEs from any start: the first one adds its count, so that the prefix sums of the rest
are the longer prefix sums of the whole. -/
theorem movesAccumulate : Obligations.MovesAccumulate := by
  intro ms
  induction ms with
  | nil => exact fun s _ => ⟨s, rfl, by simp, rfl, rfl, rfl⟩
  | cons m ms ih =>
    intro s hfit
    obtain ⟨df, delay, count⟩ := m
    have hfirst : -2 ^ 31 ≤ s.pending.toInt + count ∧ s.pending.toInt + count ≤ 2 ^ 31 - 1 := by
      simpa using hfit 1 (by simp)
    obtain ⟨u, hu⟩ : ∃ u, exec (.move df delay count) s = .next u := ⟨_, exec_goes_on _ s⟩
    have hpending : u.pending.toInt = s.pending.toInt + count := (execMove_pending_toInt hu).trans (if_pos hfirst)
    obtain ⟨hphase, -⟩ := exec_frame hu
    obtain ⟨hovf, hill⟩ := execMove_flags_of_fits hu hfirst
    have hrest : ∀ k, k ≤ ms.length → -2 ^ 31 ≤ u.pending.toInt + ((ms.take k).map fun m => m.2.2).sum ∧
        u.pending.toInt + ((ms.take k).map fun m => m.2.2).sum ≤ 2 ^ 31 - 1 := fun k hk => by
      simpa [hpending, add_assoc] using hfit (k + 1) (by simpa using hk)
    obtain ⟨t, ht, htp, htphase, htovf, htill⟩ := ih u hrest
    refine ⟨t, (runCommands_cons hu _).trans ht, ?_, htphase.trans hphase, htovf.trans hovf, htill.trans hill⟩
    rw [htp, hpending, List.map_cons, List.sum_cons, add_assoc]

end Sys2Proof.Machine

namespace Sys2Proof

open Machine

/-! SUPPORT. The word as its four fields, side by side (R70). -/

/-- A word is its four fields packed again (R70). -/
theorem packFields_fields (w : CmdWord) :
    packFields (opField w) (dfField w) (delayField w) (countField w) = w := by
  have hdf : BitVec.ofBool (dfField w) = w.extractLsb' 59 1 := by
    apply BitVec.eq_of_getLsbD_eq
    intro i hi
    obtain rfl : i = 0 := by omega
    simp [dfField]
  rw [packFields, hdf, opField, delayField, countField, BitVec.ofNat_toNat, BitVec.ofNat_toNat, BitVec.ofInt_toInt,
    BitVec.setWidth_eq, BitVec.setWidth_eq, BitVec.extractLsb'_append_extractLsb'_eq_extractLsb' (by omega),
    BitVec.extractLsb'_append_extractLsb'_eq_extractLsb' (by omega),
    BitVec.extractLsb'_append_extractLsb'_eq_extractLsb' (by omega), BitVec.extractLsb'_eq_self]

/-- A mask on OP keeps the bits of OP under it and clears every other field. -/
theorem and_opMask (w : CmdWord) (m : Nat) :
    w &&& packFields m false 0 0 = packFields (opField w &&& m) false 0 0 := by
  calc w &&& packFields m false 0 0
    _ = packFields (opField w) (dfField w) (delayField w) (countField w) &&& packFields m false 0 0 := by
        rw [packFields_fields]
    _ = (BitVec.ofNat 4 (opField w) &&& BitVec.ofNat 4 m) ++
          ((BitVec.ofBool (dfField w) ++ (BitVec.ofNat 27 (delayField w) ++ BitVec.ofInt 32 (countField w))) &&&
            0#(1 + (27 + 32))) :=
        BitVec.and_append
    _ = packFields (opField w &&& m) false 0 0 := by
        rw [BitVec.and_zero, packFields, BitVec.ofNat_and]
        rfl

/-- A word's COUNT is a 32-bit two's complement value (R72). -/
theorem countField_range (w : CmdWord) : -2 ^ 31 ≤ countField w ∧ countField w ≤ 2 ^ 31 - 1 :=
  pending_range (w.extractLsb' 0 32)

/-- COUNT of a packed word whose count is in range (R72). -/
theorem countField_packFields_of_range {count : Int} (hl : -2 ^ 31 ≤ count) (hu : count ≤ 2 ^ 31 - 1) (op : Nat) (df : Bool)
    (delay : Nat) : countField (packFields op df delay count) = count := by
  rw [countField_packFields]
  exact Int.bmod_eq_of_le (by omega) (by omega)

/-! SUPPORT. Decoding and encoding undo each other, up to the ignored fields (R74, R77). -/

/-- The word of a well-formed command carries the command's OP (R71). -/
theorem opField_encode {i : Instr} (h : i.WellFormed) : opField (encode i) = i.op := by
  cases i with
  | nop => exact Laws.EncodesOp.nop h
  | move df delay count => exact Laws.EncodesOp.move df delay count h
  | stop => exact Laws.EncodesOp.stop h
  | status => exact Laws.EncodesOp.status h
  | reservedLow op => exact Laws.EncodesOp.reservedLow op h
  | reservedHigh op => exact Laws.EncodesOp.reservedHigh op h

/-- OP of the word selects the constructor, and for a MOVE the other fields are the operands. -/
theorem decode_encode {i : Instr} (h : i.WellFormed) : decode (encode i) = i := by
  have hop := opField_encode h
  cases i with
  | nop => exact decode_nop hop
  | move df delay count =>
    obtain ⟨hd, hl, hu⟩ := (wellFormed_move df delay count).mp h
    rw [decode_move hop, encode, dfField_packFields, delayField_packFields, countField_packFields_of_range hl hu,
      Nat.mod_eq_of_lt hd]
  | stop => exact decode_stop hop
  | status => exact decode_status hop
  | reservedLow op =>
    obtain ⟨hl, hu⟩ := (wellFormed_reservedLow op).mp h
    have hop : opField (encode (.reservedLow op)) = op := hop
    rw [decode_reservedLow (by omega) (by omega), hop]
  | reservedHigh op =>
    obtain ⟨hl, hu⟩ := (wellFormed_reservedHigh op).mp h
    have hop : opField (encode (.reservedHigh op)) = op := hop
    rw [decode_reservedHigh (by omega), hop]

/-- Every word decodes to a command whose operands fit their fields (R76). -/
theorem decode_wellFormed (w : CmdWord) : (decode w).WellFormed := by
  have := opField_lt w
  rcases decode_cases w with ⟨-, e⟩ | ⟨-, e⟩ | ⟨-, e⟩ | ⟨-, e⟩ | ⟨hl, hu, e⟩ | ⟨hl, e⟩ <;> rw [e]
  · rfl
  · exact (wellFormed_move _ _ _).mpr ⟨delayField_lt w, countField_range w⟩
  · rfl
  · rfl
  · exact (wellFormed_reservedLow _).mpr ⟨hl, hu⟩
  · exact (wellFormed_reservedHigh _).mpr ⟨hl, by omega⟩

/-- A MOVE keeps all its fields (R77). -/
theorem encode_decode_of_move {w : CmdWord} (h : opField w = 1) : encode (decode w) = w := by
  conv_rhs => rw [← packFields_fields w, h]
  rw [decode_move h]
  rfl

/-- Every other command keeps OP alone (R74, R77). -/
theorem encode_decode_of_not_move {w : CmdWord} (h : opField w ≠ 1) :
    encode (decode w) = packFields (opField w) false 0 0 := by
  rcases decode_cases w with ⟨ho, e⟩ | ⟨ho, -⟩ | ⟨ho, e⟩ | ⟨ho, e⟩ | ⟨-, -, e⟩ | ⟨-, e⟩
  · rw [e, ho]; rfl
  · exact absurd ho h
  · rw [e, ho]; rfl
  · rw [e, ho]; rfl
  · rw [e]; rfl
  · rw [e]; rfl

/-- Two words with the same OP, and for a MOVE the same operands, are the same command (R71). -/
theorem decode_congr {w w' : CmdWord} (hop : opField w = opField w')
    (hm : opField w = 1 → dfField w = dfField w' ∧ delayField w = delayField w' ∧ countField w = countField w') :
    decode w = decode w' := by
  rcases decode_cases w with ⟨h, e⟩ | ⟨h, e⟩ | ⟨h, e⟩ | ⟨h, e⟩ | ⟨hl, hu, e⟩ | ⟨hl, e⟩
  · rw [e, decode_nop (hop ▸ h)]
  · obtain ⟨hdf, hdelay, hcount⟩ := hm h
    rw [e, decode_move (hop ▸ h), hdf, hdelay, hcount]
  · rw [e, decode_stop (hop ▸ h)]
  · rw [e, decode_status (hop ▸ h)]
  · rw [e, decode_reservedLow (hop ▸ hl) (hop ▸ hu), hop]
  · rw [e, decode_reservedHigh (hop ▸ hl), hop]

/-! SUPPORT. The rows of the opcode table look at OP alone (R71). -/

/-- A table row's pattern and mask lie in OP. -/
theorem opcodeRows_pack {r : OpcodeRow} (hr : r ∈ opcodeRows) :
    r.pattern = packFields (opField r.pattern) false 0 0 ∧ r.mask = packFields (opField r.mask) false 0 0 := by
  revert r
  decide

/-- A word belongs to a row exactly when its OP does. -/
theorem holds_iff_opField {r : OpcodeRow} (hr : r ∈ opcodeRows) (w : CmdWord) :
    r.holds w = true ↔ opField w &&& opField r.mask = opField r.pattern := by
  obtain ⟨hp, hm⟩ := opcodeRows_pack hr
  have hlt : opField w &&& opField r.mask < 16 := Nat.lt_of_le_of_lt Nat.and_le_left (opField_lt w)
  rw [OpcodeRow.holds, beq_iff_eq, hm, and_opMask, ← hm]
  constructor
  · intro h
    rw [← h, opField_packFields, Nat.mod_eq_of_lt hlt]
  · intro h
    rw [h, ← hp]

/-- No OP belongs to two rows of the table. -/
theorem opcodeRows_disjoint : ∀ op < 16, ∀ r ∈ opcodeRows, ∀ r' ∈ opcodeRows,
    op &&& opField r.mask = opField r.pattern → op &&& opField r'.mask = opField r'.pattern → r' = r := by decide

/-- The `k`-th row is the only row of every word whose OP belongs to it. -/
theorem exists_unique_row {w : CmdWord} (k : Fin 6)
    (hop : opField w &&& opField (opcodeRows.get k).mask = opField (opcodeRows.get k).pattern)
    (hname : (opcodeRows.get k).mnemonic = (decode w).mnemonic) :
    ∃ r ∈ opcodeRows, r.holds w = true ∧ r.mnemonic = (decode w).mnemonic ∧
      ∀ r' ∈ opcodeRows, r'.holds w = true → r' = r := by
  have hr : opcodeRows.get k ∈ opcodeRows := List.get_mem _ _
  refine ⟨_, hr, (holds_iff_opField hr w).mpr hop, hname, fun r' hr' h => ?_⟩
  exact opcodeRows_disjoint (opField w) (opField_lt w) _ hr r' hr' hop ((holds_iff_opField hr' w).mp h)

/-! SUPPORT. The effect of a command does not depend on what it ignores (R74). -/

namespace Machine

/-- With DF = 1 the delay of a MOVE is not read, and the period is 1000 ticks (R74, R78, R103). -/
theorem execMove_default_eq_thousand (delay : Nat) (count : Int) (s : State) :
    execMove true delay count s = execMove false 1000 count s := rfl

/-- Only a reserved OP records IllegalCommand (R114, R172). -/
theorem exec_ill {i : Instr} {s t : State} (h : exec i s = .next t) (hl : ∀ op, i ≠ .reservedLow op)
    (hh : ∀ op, i ≠ .reservedHigh op) : t.ill = s.ill := by
  rcases exec_cases h with ⟨-, rfl⟩ | ⟨df, delay, count, -, hm⟩ | ⟨-, rfl⟩ | ⟨-, rfl⟩ | ⟨⟨op, hi⟩ | ⟨op, hi⟩, -⟩
  · rfl
  · rcases execMove_next_cases hm with ⟨-, rfl⟩ | ⟨-, -, rfl⟩ | ⟨-, -, rfl⟩ | ⟨-, -, -, -, rfl⟩ | ⟨-, -, rfl⟩ <;> rfl
  · rfl
  · rfl
  · exact absurd hi (hl op)
  · exact absurd hi (hh op)

/-! SUPPORT. The assembler and the disassembler, one lemma for each form of line (R77, R78). -/

/-- `MOVE <count>, <delay>` (R77). -/
theorem assemble_moveDelay (count delay : Int) :
    assemble (.moveDelay count delay) =
      if -2 ^ 31 ≤ count ∧ count ≤ 2 ^ 31 - 1 ∧ 0 ≤ delay ∧ delay < 2 ^ 27 then
        some (encode (.move false delay.toNat count)) else none := by
  have hrange : (AsmLine.moveDelay count delay).inRange = true ↔
      -2 ^ 31 ≤ count ∧ count ≤ 2 ^ 31 - 1 ∧ 0 ≤ delay ∧ delay < 2 ^ 27 := by
    simp only [AsmLine.inRange, Bool.and_eq_true, decide_eq_true_eq, wellFormed_move]
    omega
  simp only [assemble, hrange]
  rfl

/-- `MOVE <count>` (R78). -/
theorem assemble_moveDefault (count : Int) :
    assemble (.moveDefault count) =
      if -2 ^ 31 ≤ count ∧ count ≤ 2 ^ 31 - 1 then some (encode (.move true 0 count)) else none := by
  have hrange : (AsmLine.moveDefault count).inRange = true ↔ -2 ^ 31 ≤ count ∧ count ≤ 2 ^ 31 - 1 := by
    simp [AsmLine.inRange, wellFormed_move]
  simp only [assemble, hrange]
  rfl

/-- An assembled MOVE line with the default delay decodes to its command (R78). -/
theorem decode_of_assemble_moveDefault {count : Int} {w : CmdWord} (h : assemble (.moveDefault count) = some w) :
    decode w = .move true 0 count := by
  rw [assemble_moveDefault, Option.ite_none_right_eq_some, Option.some.injEq] at h
  obtain ⟨hc, rfl⟩ := h
  exact decode_encode ((wellFormed_move _ _ _).mpr ⟨by omega, hc⟩)

/-- An assembled MOVE line with a delay decodes to its command, whose delay is the line's (R77). -/
theorem decode_of_assemble_moveDelay {count delay : Int} {w : CmdWord} (h : assemble (.moveDelay count delay) = some w) :
    decode w = .move false delay.toNat count ∧ (delay.toNat : Int) = delay := by
  rw [assemble_moveDelay, Option.ite_none_right_eq_some, Option.some.injEq] at h
  obtain ⟨⟨hl, hu, h0, hd⟩, rfl⟩ := h
  exact ⟨decode_encode ((wellFormed_move _ _ _).mpr ⟨by omega, hl, hu⟩), Int.toNat_of_nonneg h0⟩

/-- The word of `MOVE <count>, <delay>`, field by field (R70, R77). -/
theorem encode_move_of_nonneg {delay : Int} (h : 0 ≤ delay) (count : Int) :
    encode (.move false delay.toNat count) = 0x1#4 ++ (0#1 ++ (BitVec.ofInt 27 delay ++ BitVec.ofInt 32 count)) := by
  have hdelay : BitVec.ofNat 27 delay.toNat = BitVec.ofInt 27 delay := by
    rw [← BitVec.ofInt_natCast, Int.toNat_of_nonneg h]
  rw [encode, packFields, hdelay]
  rfl

/-- A MOVE is printed with its delay exactly when DF = 0 (R77). -/
theorem disassemble_move {w : CmdWord} {df : Bool} {delay : Nat} {count : Int} (h : decode w = .move df delay count) :
    disassemble w = if df then .moveDefault count else .moveDelay count delay := by
  rw [disassemble, h]

/-- A reserved OP is printed as a `.word` line (R77). -/
theorem disassemble_reserved {w : CmdWord} (h : 4 ≤ opField w) : disassemble w = .word w := by
  rcases Nat.lt_or_ge (opField w) 8 with h8 | h8
  · rw [disassemble, decode_reservedLow h (by omega)]
  · rw [disassemble, decode_reservedHigh h8]

end Machine

/-! PROOFS. The encoding (spec/30_encoding.md). -/

/-- Settles O5: every field of the packed word is the operand it was packed from. -/
theorem decodeInvertsEncode : Obligations.DecodeInvertsEncode := fun _ => decode_encode

/-- Settles O4: a row looks at OP alone, and no OP belongs to two rows. -/
theorem everyWordHasExactlyOneTableRow : Obligations.EveryWordHasExactlyOneTableRow := by
  intro w
  rcases decode_cases w with ⟨ho, e⟩ | ⟨ho, e⟩ | ⟨ho, e⟩ | ⟨ho, e⟩ | ⟨hl, hu, e⟩ | ⟨hl, e⟩
  · exact exists_unique_row 0 (by rw [ho]; decide) (by rw [e]; rfl)
  · exact exists_unique_row 1 (by rw [ho]; decide) (by rw [e]; rfl)
  · exact exists_unique_row 2 (by rw [ho]; decide) (by rw [e]; rfl)
  · exact exists_unique_row 3 (by rw [ho]; decide) (by rw [e]; rfl)
  · have hmask : ∀ op < 8, 4 ≤ op → op &&& opField opcodeRows[4].mask = opField opcodeRows[4].pattern := by decide
    exact exists_unique_row 4 (hmask _ (by omega) hl) (by rw [e]; rfl)
  · have hmask : ∀ op < 16, 8 ≤ op → op &&& opField opcodeRows[5].mask = opField opcodeRows[5].pattern := by decide
    exact exists_unique_row 5 (hmask _ (opField_lt w) hl) (by rw [e]; rfl)

/-- Settles O6: the encoder writes OP alone for every command but MOVE, and the mask keeps OP alone. -/
theorem encodeOfDecodeClearsIgnoredBits : Obligations.EncodeOfDecodeClearsIgnoredBits := by
  intro w
  refine ⟨decode_wellFormed w, ?_⟩
  change encode (decode w) = if opField w = 1 then w else w &&& packFields 15 false 0 0
  split
  case isTrue h => exact encode_decode_of_move h
  case isFalse h =>
    have hkeep : opField w &&& 15 = opField w := (Nat.and_two_pow_sub_one_eq_mod _ 4).trans (Nat.mod_eq_of_lt (opField_lt w))
    rw [encode_decode_of_not_move h, and_opMask, hkeep]

/-- Settles O7: words that differ in ignored fields are the same command, but for the DELAY of a MOVE with DF = 1, which the
command does not read. -/
theorem ignoredFieldsNeverMatter : Obligations.IgnoredFieldsNeverMatter := by
  refine ⟨fun w w' s hop hm => ?_, fun w s t hlt h => ?_⟩
  · have hop : opField w = opField w' := congrArg BitVec.toNat hop
    have hcount : opField w = 1 → countField w = countField w' := fun h => congrArg BitVec.toInt (hm h).2.1
    by_cases hdefault : opField w = 1 ∧ dfField w = true
    · obtain ⟨h1, hdf⟩ := hdefault
      have hdf' : dfField w' = true := (hm h1).1.symm.trans hdf
      rw [decode_move h1, decode_move (hop.symm.trans h1), hdf, hdf', hcount h1]
      exact (execMove_default_eq_thousand _ _ s).trans (execMove_default_eq_thousand _ _ s).symm
    · have hdelay : opField w = 1 → delayField w = delayField w' := fun h =>
        congrArg BitVec.toNat ((hm h).2.2 (Bool.eq_false_iff.mpr fun hdf => hdefault ⟨h, hdf⟩))
      rw [decode_congr hop fun h => ⟨(hm h).1, hdelay h, hcount h⟩]
  · have hlt : opField w < 4 := hlt
    rcases decode_cases w with ⟨-, e⟩ | ⟨-, e⟩ | ⟨-, e⟩ | ⟨-, e⟩ | ⟨hl, -⟩ | ⟨hl, -⟩
    · exact exec_ill (i := .nop) (e ▸ h) nofun nofun
    · exact exec_ill (i := .move _ _ _) (e ▸ h) nofun nofun
    · exact exec_ill (i := .stop) (e ▸ h) nofun nofun
    · exact exec_ill (i := .status) (e ▸ h) nofun nofun
    · omega
    · omega

/-- Settles O10: the word of a line decodes to the line's command, which the disassembler prints under its own name. -/
theorem disassembleInvertsAssemble : Obligations.DisassembleInvertsAssemble := by
  refine ⟨fun l w h => ?_, fun w => ⟨disassemble_reserved, fun h hdf => ?_, fun h hdf => ?_⟩⟩
  · cases l with
    | moveDelay count delay =>
      obtain ⟨hd, hdelay⟩ := decode_of_assemble_moveDelay h
      rw [disassemble_move hd, hdelay]
      rfl
    | moveDefault count => exact disassemble_move (decode_of_assemble_moveDefault h)
    | nop | stop | status | isRunning | word =>
      obtain rfl := Option.some.inj h
      rfl
  · have hdf : dfField w = true := hdf
    rw [disassemble_move (decode_move h), hdf]
    rfl
  · have hdf : dfField w = false := hdf
    rw [disassemble_move (decode_move h), hdf]
    rfl

/-- Settles O1: each row of R80 is read, assembled and printed by evaluation. -/
theorem specEncodingExamplesAssemble : Obligations.SpecEncodingExamplesAssemble := by
  unfold Obligations.SpecEncodingExamplesAssemble
  decide

/-- Settles O2: each word is decoded by evaluation. -/
theorem handWrittenWordsDecode : Obligations.HandWrittenWordsDecode := by
  unfold Obligations.HandWrittenWordsDecode
  decide

/-- Settles O3: the decoder's answer for each OP, and the range of a 32-bit field. -/
theorem opFieldSelectsTheCommand : Obligations.OpFieldSelectsTheCommand :=
  fun w => ⟨decode_nop, decode_move, decode_stop, decode_status, decode_reservedLow, decode_reservedHigh, countField_range w⟩

/-- Settles O8: the two MOVE lines, with the encoder's word written out field by field. -/
theorem assemblerRefusesOutOfRange : Obligations.AssemblerRefusesOutOfRange := by
  refine fun count delay => ⟨?_, assemble_moveDefault count⟩
  rw [assemble_moveDelay]
  split
  case isTrue h => rw [encode_move_of_nonneg h.2.2.1]
  case isFalse => rfl

/-- Settles O9: the default period is 1000 ticks, and both names of STATUS assemble to one word. -/
theorem defaultMoveEqualsThousandTicks : Obligations.DefaultMoveEqualsThousandTicks := by
  refine ⟨fun count hl hu => (assemble_moveDefault count).trans (if_pos ⟨hl, hu⟩), fun count w w' s h h' => ?_, rfl⟩
  rw [decode_of_assemble_moveDefault h, (decode_of_assemble_moveDelay h').1]
  exact execMove_default_eq_thousand 0 count s

end Sys2Proof

namespace Sys2Proof.Machine

/-! SUPPORT. The ROM as a window three bits wide, and each coil's place in it (R90, R91). -/

/-- Output bit i of `sequence(p)` is ROM bit p + 2i (R91): one place of the concatenation for each coil. -/
theorem getLsbD_romSequence (p : Phase) (i : Fin 4) : (romSequence p).getLsbD i = rom (p.toNat + 2 * i) := by
  simp only [romSequence, BitVec.getLsbD_append]
  fin_cases i <;> simp

/-- Within the reach of `sequence`, the ROM's ones are the first three bits of each byte (R90). -/
theorem rom_eq_window : ∀ n < 14, rom n = decide (n % 8 < 3) := by decide

/-- Coil i is energized when p + 2i falls, mod 8, into the window of width 3 (R90, R91). -/
theorem getLsbD_romSequence_eq_window (p : Phase) (i : Fin 4) :
    (romSequence p).getLsbD i = decide ((p.toNat + 2 * i) % 8 < 3) := by
  rw [getLsbD_romSequence, rom_eq_window _ (by omega)]

/-- At phase 2k the window meets the coils -k and -k + 1, cyclically (R94). -/
theorem getLsbD_romSequence_of_even {p : Phase} (h : p.toNat % 2 = 0) (j : Fin 4) :
    (romSequence p).getLsbD j =
      (j == -Fin.ofNat 4 (p.toNat / 2) || j == -Fin.ofNat 4 (p.toNat / 2) + 1) := by
  have hcoils : ∀ k < 4, ∀ j : Fin 4, decide ((2 * k + 2 * j.val) % 8 < 3) =
      (j == -Fin.ofNat 4 k || j == -Fin.ofNat 4 k + 1) := by decide
  have hp : p.toNat = 2 * (p.toNat / 2) := by omega
  rw [getLsbD_romSequence_eq_window, ← hcoils _ (by omega), ← hp]

/-- A window of width 3 holds one odd or two even places: one coil at odd phases and two at even ones (R94). -/
theorem coilCount_romSequence : ∀ p : Phase, coilCount (romSequence p) = if p.toNat % 2 = 1 then 1 else 2 := by decide

/-- Every phase energizes a coil (R94). -/
theorem romSequence_ne_zero (p : Phase) : romSequence p ≠ 0 := by
  intro h
  have hcount := coilCount_romSequence p
  rw [h, show coilCount 0 = 0 from rfl] at hcount
  split at hcount <;> contradiction

/-- A coil shared with the next phase stands in place 0 or 1 of the window, and exactly one coil does (R94). -/
theorem coilCount_romSequence_and_succ : ∀ p : Phase, coilCount (romSequence p &&& romSequence (p + 1)) = 1 := by decide

/-- No two phases have the same pattern (R94). -/
theorem romSequence_injective : Function.Injective romSequence := by
  unfold Function.Injective
  decide

/-! PROOFS. The phase sequencer (spec/40_phase_sequencer.md). -/

/-- Settles O11: the bit formula is R91's, and the eight rows of R92 are read off by evaluation. -/
theorem romSequenceTable : Obligations.RomSequenceTable :=
  ⟨getLsbD_romSequence, List.forall_iff_forall_mem.mp (by decide)⟩

/-- Settles O12: each property of R94 from how the window of the ROM meets the coils' places. -/
theorem romSequenceProperties : Obligations.RomSequenceProperties := by
  refine ⟨fun p hodd => ?_, fun p heven => ⟨_, getLsbD_romSequence_of_even heven⟩, by decide,
    coilCount_romSequence_and_succ, by decide, fun _ _ h => romSequence_injective h,
    fun p => ⟨romSequence_ne_zero p, ?_⟩⟩
  · rw [coilCount_romSequence, if_pos hodd]
  · rw [coilCount_romSequence]
    split <;> decide

end Sys2Proof.Machine

namespace Sys2Proof.Machine

/-! SUPPORT. The block at rest: nothing pending, disarmed, coils off (R27, R28, R111). -/

/-- The motion registers as STOP and RESET leave them (R110, R200). -/
structure State.AtRest (s : State) : Prop where
  pending_zero : s.pending = 0
  disarmed     : s.armed = false
  coils_off    : s.en = false
  div_zero     : s.div = 0

/-- Being at rest is a matter of four registers. -/
theorem State.AtRest.of_registers_eq {s t : State} (h : s.AtRest)
    (ht : t.pending = s.pending ∧ t.armed = s.armed ∧ t.en = s.en ∧ t.div = s.div) : t.AtRest := by
  obtain ⟨hp, ha, he, hd⟩ := ht
  exact ⟨hp.trans h.pending_zero, ha.trans h.disarmed, he.trans h.coils_off, hd.trans h.div_zero⟩

/-- By the invariants a disarmed block is at rest (R36). -/
theorem State.Inv.atRest {s : State} (h : s.Inv) (ha : s.armed = false) : s.AtRest :=
  ⟨h.disarmed_idle ha, ha, h.disarmed_off ha, h.disarmed_div ha⟩

/-- STOP brings the block to rest from any state (R110). -/
theorem atRest_of_exec_stop {s t : State} (h : exec .stop s = .next t) : t.AtRest := by
  obtain rfl := Host.Outcome.next.inj h
  exact ⟨rfl, rfl, rfl, rfl⟩

/-- There is nothing to disarm in a block at rest (R105). -/
theorem State.AtRest.disarm_eq {s : State} (h : s.AtRest) : disarm s = s := by
  obtain ⟨-, ha, he, hd⟩ := h
  cases s
  cases ha
  cases he
  cases hd
  rfl

/-- STOP at rest responds 0 and writes no register (R111). -/
theorem State.AtRest.exec_stop_eq {s : State} (h : s.AtRest) : exec .stop s = .next (respond 0 s) := by
  have hcancel : ({ respond s.pending s with pending := 0 } : State) = respond 0 s := by
    rw [h.pending_zero, respond, ← h.pending_zero]
  have hrest : (respond 0 s).AtRest := h.of_registers_eq ⟨rfl, rfl, rfl, rfl⟩
  rw [exec_stop, execStop, hcancel, hrest.disarm_eq]

/-- No command but MOVE ends the rest (R106). -/
theorem exec_atRest {i : Instr} {s t : State} (hs : s.AtRest) (hi : ∀ df delay count, i ≠ .move df delay count)
    (h : exec i s = .next t) : t.AtRest := by
  by_cases hstop : i = .stop
  · exact atRest_of_exec_stop (hstop ▸ h)
  · exact hs.of_registers_eq (exec_motion_frame h hstop hi)

/-! SUPPORT. Cycles in which nothing ticks, and cycles that carry the same command. -/

/-- Without an armed gate or without a strobe the tick step does nothing (R140, R141). -/
theorem gateAndTick_of_no_count {r : Bool} {s : State} (h : s.armed = false ∨ r = false) : gateAndTick r s = s := by
  rcases gateAndTick_cases r s with ⟨-, ha, hr, -⟩ | ⟨-, ha, hr, -⟩ | ⟨-, ha, hr, -⟩ | ⟨-, -, e⟩
  · simp [ha, hr] at h
  · simp [ha, hr] at h
  · simp [ha, hr] at h
  · exact e

/-- Without a fire at most `div` changes (R140). -/
theorem gateAndTick_of_no_fire {r : Bool} {s : State} (h : gateFires r s = false) :
    ∃ d, gateAndTick r s = { s with div := d } := by
  rcases gateAndTick_cases r s with ⟨hf, -⟩ | ⟨hf, -⟩ | ⟨-, -, -, -, e⟩ | ⟨-, -, e⟩
  · simp [hf] at h
  · simp [hf] at h
  · exact ⟨_, e⟩
  · exact ⟨s.div, e⟩

/-- A cycle reads its command port through the command alone (R115). -/
theorem cycle_congr {p q : Pins} (hrst : p.rst = q.rst) (htick : p.refTick = q.refTick) (hcmd : commandOf p = commandOf q)
    (s : State) : cycle p s = cycle q s := by
  rw [cycle, cycle, applyCommand_eq_exec, applyCommand_eq_exec, hrst, htick, hcmd]

/-- A cycle of a block at rest without a MOVE leaves it at rest (R111, R141, R200). -/
theorem cycle_atRest {p : Pins} {s t : State} (hs : s.AtRest)
    (hp : p.cmdValid = true → ∀ df delay count, decode p.cmdWord ≠ .move df delay count) (h : cycle p s = .next t) :
    t.AtRest := by
  have hticked : (beforeCommand p.refTick s).AtRest := by
    rw [beforeCommand, gateAndTick_of_no_count (s := clearResponse s) (.inl hs.disarmed)]
    exact hs.of_registers_eq ⟨rfl, rfl, rfl, rfl⟩
  rcases cycle_cases h with ⟨-, rfl⟩ | ⟨-, -, rfl⟩ | ⟨-, hv, u, hu, rfl⟩
  · exact ⟨rfl, rfl, rfl, rfl⟩
  · exact hticked.of_registers_eq ⟨rfl, rfl, rfl, rfl⟩
  · exact (exec_atRest hticked (hp hv) hu).of_registers_eq ⟨rfl, rfl, rfl, rfl⟩

/-- Any run without a MOVE leaves a block at rest at rest (R111). -/
theorem runCycles_atRest {ps : List Pins} {s : State} (hs : s.AtRest)
    (hps : ∀ p ∈ ps, p.cmdValid = true → ∀ df delay count, decode p.cmdWord ≠ .move df delay count) :
    ∃ u, runCycles ps s = .next u ∧ u.AtRest := by
  induction ps generalizing s with
  | nil => exact ⟨s, rfl, hs⟩
  | cons p ps ih =>
    have hc := cycle_goes_on p s
    obtain ⟨hp, hrest⟩ := List.forall_mem_cons.mp hps
    rw [runCycles_cons, hc, andThen_next]
    exact ih (cycle_atRest hs hp hc) hrest

/-! SUPPORT. The forms of MOVE, one equation each (R102, R104, R105). -/

/-- MOVE 0 never overflows, since `pending` is in range already (R105). -/
theorem exec_move_zero (df : Bool) (delay : Nat) (s : State) : exec (.move df delay 0) s = .next (moveNothing s) := by
  have hfits : fitsPending (exactSum s.pending 0) = true := by
    rw [exactSum, Int.add_zero, fitsPending_iff]
    exact pending_range s.pending
  rw [exec_move, execMove, if_pos hfits, if_pos rfl]

/-- A MOVE with count ≠ 0 whose sum fits is accepted (R102). -/
theorem exec_move_accepted {s : State} {count : Int} (hc : count ≠ 0) (hl : -2 ^ 31 ≤ s.pending.toInt + count)
    (hu : s.pending.toInt + count ≤ 2 ^ 31 - 1) (df : Bool) (delay : Nat) :
    exec (.move df delay count) s = .next (acceptMove df delay count s) := by
  have hfits : fitsPending (exactSum s.pending count) = true := (fitsPending_iff _).mpr ⟨hl, hu⟩
  rw [exec_move, execMove, if_pos hfits, if_neg hc]

/-! SUPPORT. The status word, bit by bit (R34). -/

/-- The single bits are the flags and the gate's registers. -/
theorem statusWord_bits (s : State) :
    (statusWord s).getLsbD 0 = running s ∧ (statusWord s).getLsbD 1 = s.armed ∧ (statusWord s).getLsbD 2 = s.en ∧
      (statusWord s).getLsbD 6 = s.ovf ∧ (statusWord s).getLsbD 7 = s.ill := by
  simp only [statusWord, BitVec.getLsbD_setWidth, BitVec.getLsbD_append, BitVec.getLsbD_ofBool]
  simp

/-- Bits 5:3 are the phase. -/
theorem statusWord_phase (s : State) : (statusWord s).extractLsb 5 3 = s.phase := by
  apply BitVec.eq_of_getLsbD_eq
  intro i hi
  have h7 : 3 + i < 1 + (3 + (1 + (1 + 1))) := by omega
  have h6 : 3 + i < 3 + (1 + (1 + 1)) := by omega
  have h3 : ¬ 3 + i < 1 + (1 + 1) := by omega
  have h32 : 3 + i < 32 := by omega
  have e : 3 + i - (1 + (1 + 1)) = i := by omega
  simp only [statusWord, BitVec.getLsbD_extractLsb, BitVec.getLsbD_setWidth, BitVec.getLsbD_append, h7, h6, h3, h32, hi, e,
    decide_true, Bool.true_and, if_true, if_false]

/-- Bits 31:8 are zeros. -/
theorem statusWord_high (s : State) : (statusWord s).extractLsb 31 8 = 0 := by
  apply BitVec.eq_of_getLsbD_eq
  intro i hi
  rw [statusWord, BitVec.getLsbD_extractLsb, BitVec.getLsbD_setWidth, BitVec.getLsbD_of_ge _ (8 + i) (by omega),
    Bool.and_false, Bool.and_false]
  exact BitVec.getLsbD_zero.symm

/-! SUPPORT. A command word on the port of the coming cycle (log 3). -/

/-- A 64-bit word is carried whole (R52). -/
theorem commandPins_toNat (w : CmdWord) :
    commandPins 64 w.toNat = { rst := false, refTick := false, cmdValid := true, cmdWord := w } := by
  rw [commandPins, Nat.mod_eq_of_lt w.isLt, BitVec.ofNat_toNat, BitVec.setWidth_eq]

/-- The cycle of a placed word has no strobe, so its command meets the state without a tick (log 3). -/
theorem ticked_withFetchWord (s : State) (nbits n : Nat) :
    ticked (s.withFetchWord nbits n) = clearResponse { s with inputs := s.inputs.tail } :=
  gateAndTick_of_no_count (.inr rfl)

/-! PROOFS. The commands (spec/41_commands.md). -/

/-- Settles O21: STOP brings the block to rest, every cycle without a MOVE keeps it there, and STOP at rest responds 0. -/
theorem secondStopReturnsZero : Obligations.SecondStopReturnsZero := by
  intro s t ps h hps
  obtain ⟨u, hu, hrest⟩ := runCycles_atRest (atRest_of_exec_stop h) hps
  exact ⟨u, hu, hrest.exec_stop_eq⟩

/-- Settles O15: a sum out of range raises Overflow, which writes `ovf` alone. -/
theorem moveOverflowSetsOnlyOvf : Obligations.MoveOverflowSetsOnlyOvf := by
  intro s df delay count h
  have hfits : ¬ fitsPending (exactSum s.pending count) = true := by
    rw [exactSum, fitsPending_iff]
    omega
  rw [exec_move, execMove, if_neg hfits]
  rfl

/-- Settles O16: outside the terminal dwell, a block that meets the invariants has something pending or is at rest. -/
theorem moveZeroOnlyEndsTheDwell : Obligations.MoveZeroOnlyEndsTheDwell := by
  intro s df delay
  rw [exec_move_zero]
  have hends : s.pending = 0 → moveNothing s = disarm s := fun hp => if_pos hp
  have hkeeps : s.pending ≠ 0 → moveNothing s = s := fun hp => if_neg hp
  refine ⟨fun hp => congrArg _ (hends hp), fun hp => congrArg _ (hkeeps hp), fun hinv hclass => congrArg _ ?_⟩
  by_cases hp : s.pending = 0
  · have ha : s.armed = false := by
      by_contra ha
      have ha := Bool.eq_true_of_not_eq_false ha
      exact hclass (by simp [State.classOf, ha, hp, hinv.dwell_energized ha hp])
    rw [hends hp, (hinv.atRest ha).disarm_eq]
  · exact hkeeps hp

/-- Settles O17: the accepted MOVE re-arms, and neither the sum nor the period is narrowed by its register. -/
theorem moveAddsAndRearms : Obligations.MoveAddsAndRearms := by
  intro s df delay count hwf hc hl hu hne
  obtain ⟨hdelay, -⟩ := (wellFormed_move df delay count).mp hwf
  refine ⟨_, (exec_move_accepted hc hl hu df delay).trans (congrArg _ (if_pos hne)), toInt_stepsOf hl hu,
    effectivePeriod_toNat hdelay df, rfl⟩

/-- Settles O18: the accepted MOVE disarms. -/
theorem moveToZeroDisarmsAtOnce : Obligations.MoveToZeroDisarmsAtOnce := by
  intro s df delay count hwf hc hsum
  obtain ⟨hdelay, -⟩ := (wellFormed_move df delay count).mp hwf
  have haccepted := exec_move_accepted (s := s) hc (by omega) (by omega) df delay
  refine ⟨_, haccepted.trans (congrArg _ (if_neg (not_not_intro hsum))), effectivePeriod_toNat hdelay df, mux_off _, ?_⟩
  rw [exactSum, hsum]
  rfl

/-- Settles O19: MOVE leaves `phase`, and it leaves `en` or turns it off. -/
theorem moveNeverTurnsCoilsOn : Obligations.MoveNeverTurnsCoilsOn := by
  intro s t df delay count h
  obtain ⟨hphase, -⟩ := exec_frame h
  rcases exec_en_cases h with ⟨-, hen⟩ | ⟨hen, -⟩
  · exact ⟨hphase, by simp [hen], .inr (by rw [hen, mux_off])⟩
  · exact ⟨hphase, fun ht => hen ▸ ht, .inl (by rw [hen, hphase])⟩

/-- Settles O20: the effect is STOP's definition, and at rest the mux is off. -/
theorem stopReturnsAndCancels : Obligations.StopReturnsAndCancels :=
  fun _ => ⟨rfl, fun _ h => by rw [(atRest_of_exec_stop h).coils_off, mux_off]⟩

/-- Settles O22: each bit of the status word is its register's. -/
theorem statusReportsTheState : Obligations.StatusReportsTheState := by
  intro s
  obtain ⟨hrunning, harmed, hen, hovf, hill⟩ := statusWord_bits s
  refine ⟨_, rfl, rfl, ?_, harmed, hen, statusWord_phase s, hovf, hill, statusWord_high s⟩
  exact hrunning.trans (by simp [running, bne, Bool.beq_eq_decide_eq])

/-- Settles O23: a word with OP 0 is the command that a cycle without one has. -/
theorem nopChangesNothing : Obligations.NopChangesNothing :=
  ⟨fun _ => rfl, fun p s hop =>
    cycle_congr (p := { p with cmdValid := true }) (q := { p with cmdValid := false }) rfl rfl (decode_nop hop) s⟩

/-- Settles O24: a word with OP from 4 on decodes to a reserved command, and both reserved commands raise IllegalCommand. -/
theorem reservedSetsOnlyIll : Obligations.ReservedSetsOnlyIll := by
  refine ⟨fun _ _ => rfl, fun _ _ => rfl, fun w s hop => ?_⟩
  rcases Nat.lt_or_ge (opField w) 8 with h8 | h8
  · rw [decode_reservedLow hop (by omega)]
    rfl
  · rw [decode_reservedHigh h8]
    rfl

/-- Settles O31: the step of a placed word is its command's, applied to a state that has not ticked. -/
theorem placedWordIsTheNextCommand : Obligations.PlacedWordIsTheNextCommand := by
  intro s t w h
  have hcmd : commandOf (s.withFetchWord 64 w.toNat).pins = decode w := by
    rw [State.withFetchWord, placePins_pins, commandPins_toNat]
    rfl
  refine step_of_exec rfl ?_
  rw [hcmd, ticked_withFetchWord]
  exact h

/-- Settles O32: a cycle without a command has the command NOP whatever its word, and without a fire only `div` counts. -/
theorem noCommandOnlyTicks : Obligations.NoCommandOnlyTicks := by
  intro p s hr hv
  refine ⟨fun w => cycle_congr (p := { p with cmdWord := w }) (q := p) rfl rfl ?_ s, fun hf => ?_⟩
  · rw [commandOf_invalid hv]
    exact commandOf_invalid hv
  · obtain ⟨d, hd⟩ := gateAndTick_of_no_fire (s := clearResponse s) hf
    refine ⟨_, cycle_noCommand hr hv s, ?_⟩
    rw [beforeCommand, hd]
    rfl

/-- Settles O41: the outcome of every command and of every cycle is a next state. -/
theorem everyCommandAndStepGoesOn : Obligations.EveryCommandAndStepGoesOn :=
  ⟨fun i s => ⟨_, exec_goes_on i s⟩, fun s => ⟨_, cycle_goes_on s.pins s.takePins⟩⟩

end Sys2Proof.Machine

namespace Sys2Proof.Machine

/-! SUPPORT. The tick gate and the tick step, one equation for each case (R140, R143). -/

theorem tick_of_pending {s : State} (h : s.pending ≠ 0) : tick s = stepMotor s := if_pos h

theorem tick_of_nothing_pending {s : State} (h : s.pending = 0) : tick s = disarm s := if_neg (not_not_intro h)

/-- A fire clears the divider and runs the tick step (R140). -/
theorem gateAndTick_of_fire {r : Bool} {s : State} (h : gateFires r s = true) :
    gateAndTick r s = tick { s with div := 0 } := by
  rcases applyGate_cases r s with ⟨-, -, -, -, e⟩ | ⟨hf, -⟩ | ⟨hf, -⟩
  · rw [gateAndTick, if_pos h, e]
  · simp [h] at hf
  · simp [h] at hf

/-- Below the period an armed gate does not fire, and a strobe counts up without wrapping (R140). -/
theorem gateAndTick_counts {r : Bool} {s : State} (ha : s.armed = true) (hd : s.div.toNat + r.toNat < s.period.toNat) :
    gateFires r s = false ∧ ∃ d, gateAndTick r s = { s with div := d } ∧ d.toNat = s.div.toNat + r.toNat := by
  rcases gateAndTick_cases r s with ⟨-, -, rfl, hp, -⟩ | ⟨-, -, rfl, hp, -⟩ | ⟨hf, -, rfl, hlt, e⟩ | ⟨hf, hoff, e⟩
  · exact absurd hd hp.not_gt
  · exact absurd hd hp.not_gt
  · exact ⟨hf, _, e, div_succ_toNat hlt⟩
  · have hr : r = false := hoff.resolve_left (by simp [ha])
    exact ⟨hf, s.div, e, by simp [hr]⟩

/-! SUPPORT. The displacement (R153). -/

/-- A half-step trades one unit of `pending` for one of `phase` (R153). -/
theorem displacement_stepMotor (s : State) : (stepMotor s).displacement = s.displacement := by
  have hphase := stepMotor_phase_toNat s
  have hpending := stepMotor_pending_toInt s
  simp only [State.displacement]
  omega

@[simp] theorem displacement_tick (s : State) : (tick s).displacement = s.displacement := by
  rcases tick_cases s with ⟨-, e⟩ | ⟨-, e⟩ <;> rw [e]
  · exact displacement_stepMotor s
  · rfl

@[simp] theorem displacement_gateAndTick (r : Bool) (s : State) : (gateAndTick r s).displacement = s.displacement := by
  by_cases hf : gateFires r s = true
  · rw [gateAndTick_of_fire hf, displacement_tick]
    rfl
  · obtain ⟨d, e⟩ := gateAndTick_of_no_fire (Bool.eq_false_of_not_eq_true hf)
    rw [e]
    rfl

/-- With nothing pending the phase is the displacement (R153). -/
theorem phase_eq_displacement {s : State} (h : s.pending = 0) : (s.phase.toNat : Int) = s.displacement := by
  have hlt := s.phase.isLt
  rw [State.displacement, (pending_eq_zero_iff _).mp h]
  omega

/-! SUPPORT. Cycles without command and reset. -/

theorem runCycles_cons_next {p : Pins} {s u : State} (h : cycle p s = .next u) (ps : List Pins) :
    runCycles (p :: ps) s = runCycles ps u := by
  rw [runCycles_cons, h, andThen_next]

/-- The state after a cycle without command and reset (R115, R150). -/
def quietNext (r : Bool) (s : State) : State := latchCoils (gateAndTick r (clearResponse s))

theorem quiet_cons {p : Pins} {ps : List Pins} :
    quiet (p :: ps) = true ↔ (p.rst = false ∧ p.cmdValid = false) ∧ quiet ps = true := by
  simp [quiet]

theorem strobes_cons (p : Pins) (ps : List Pins) : strobes (p :: ps) = p.refTick.toNat + strobes ps := by
  rw [strobes, List.countP_cons, Nat.add_comm]
  cases p.refTick <;> rfl

/-- The first of some quiet cycles runs the gate and the tick step alone (R115, R150). -/
theorem runCycles_quiet_cons {p : Pins} {ps : List Pins} (h : quiet (p :: ps) = true) (s : State) :
    quiet ps = true ∧ runCycles (p :: ps) s = runCycles ps (quietNext p.refTick s) := by
  obtain ⟨⟨hr, hv⟩, hps⟩ := quiet_cons.mp h
  exact ⟨hps, runCycles_cons_next (cycle_noCommand hr hv s) ps⟩

/-- Before the strobe that completes the period quiet cycles count strobes and do nothing else (R140, R142). -/
theorem runCycles_quiet_counts {ps : List Pins} {s : State} (ha : s.armed = true) (hq : quiet ps = true)
    (hd : s.div.toNat + strobes ps < s.period.toNat) :
    ∃ t, runCycles ps s = .next t ∧ t.div.toNat = s.div.toNat + strobes ps ∧
      t.phase = s.phase ∧ t.pending = s.pending ∧ t.en = s.en ∧ t.armed = true ∧ t.period = s.period := by
  induction ps generalizing s with
  | nil => exact ⟨s, rfl, rfl, rfl, rfl, rfl, ha, rfl⟩
  | cons p ps ih =>
    obtain ⟨hps, hrun⟩ := runCycles_quiet_cons hq s
    rw [strobes_cons, ← Nat.add_assoc] at hd ⊢
    obtain ⟨-, d, e, hcount⟩ := gateAndTick_counts (r := p.refTick) (s := clearResponse s) ha (Nat.lt_of_add_right_lt hd)
    rw [clearResponse_div] at hcount
    rw [← hcount] at hd ⊢
    rw [hrun, quietNext, e]
    exact ih (s := latchCoils { clearResponse s with div := d }) ha hps hd

/-! SUPPORT. Completion: the strobes up to Idle (R154). -/

/-- In quiet cycles the displacement stays, since ticks alone move the block (R153). -/
theorem displacement_runCycles_quiet {ps : List Pins} {s t : State} (hq : quiet ps = true) (h : runCycles ps s = .next t) :
    t.displacement = s.displacement := by
  induction ps generalizing s with
  | nil =>
    obtain rfl := Host.Outcome.next.inj h
    rfl
  | cons p ps ih =>
    obtain ⟨hps, hrun⟩ := runCycles_quiet_cons hq s
    refine (ih hps (hrun ▸ h)).trans ?_
    exact displacement_gateAndTick p.refTick (clearResponse s)

/-- A block at rest with its coils off stays so through quiet cycles (R141, R147). -/
theorem runCycles_quiet_atRest {ps : List Pins} {s : State} (hs : s.AtRest) (hc : s.coils = 0) (hq : quiet ps = true) :
    ∃ t, runCycles ps s = .next t ∧ t.AtRest ∧ t.coils = 0 := by
  induction ps generalizing s with
  | nil => exact ⟨s, rfl, hs, hc⟩
  | cons p ps ih =>
    obtain ⟨hps, hrun⟩ := runCycles_quiet_cons hq s
    rw [hrun, quietNext, gateAndTick_of_no_count (s := clearResponse s) (.inl hs.disarmed)]
    refine ih (hs.of_registers_eq ⟨rfl, rfl, rfl, rfl⟩) ?_ hps
    rw [latchCoils_coils, clearResponse_en, hs.coils_off, mux_off]

/-- A half-step leaves one unit less outstanding (R143). -/
theorem stepMotor_pending_natAbs {s : State} (h : s.pending ≠ 0) :
    (stepMotor s).pending.toInt.natAbs + 1 = s.pending.toInt.natAbs := by
  have hne := (pending_eq_zero_iff s.pending).not.mp h
  rw [stepMotor_pending_toInt]
  rcases direction_cases s.pending with ⟨_, e⟩ | ⟨_, e⟩ | ⟨_, e⟩ <;> rw [e] <;> omega

/-- The strobes from an arming to Idle, one period for each half-step and one for the dwell (R154). -/
def State.motionStrobes (s : State) : Nat := (s.pending.toInt.natAbs + 1) * s.period.toNat

/-- Every half-step takes one period off the strobes to come (R142, R154). -/
theorem motionStrobes_stepMotor {s : State} (h : s.pending ≠ 0) :
    s.motionStrobes = (stepMotor s).motionStrobes + s.period.toNat := by
  rw [State.motionStrobes, State.motionStrobes, stepMotor_pending_natAbs h, Nat.succ_mul, stepMotor_period]

theorem motionStrobes_of_nothing_pending {s : State} (h : s.pending = 0) : s.motionStrobes = s.period.toNat := by
  rw [State.motionStrobes, h]
  exact Nat.one_mul _

theorem period_le_motionStrobes (s : State) : s.period.toNat ≤ s.motionStrobes :=
  Nat.le_mul_of_pos_left _ (Nat.succ_pos _)

/-- A quiet cycle of an armed block takes its strobe off those to come, or has the last of them and ends the motion (R154). -/
theorem quietNext_progress {s : State} (hinv : s.Inv) (ha : s.armed = true) (r : Bool) :
    ((quietNext r s).Inv ∧ (quietNext r s).armed = true ∧
      s.div.toNat + r.toNat + (quietNext r s).motionStrobes = (quietNext r s).div.toNat + s.motionStrobes) ∨
    ((quietNext r s).AtRest ∧ (quietNext r s).coils = 0 ∧ s.div.toNat + r.toNat = s.motionStrobes) := by
  have hnext : (quietNext r s).Inv := latchCoils_inv (gateAndTick_inv (clearResponse_inv hinv) r)
  have hdiv := hinv.armed_div ha
  by_cases hlt : s.div.toNat + r.toNat < s.period.toNat
  · obtain ⟨-, d, e, hcount⟩ := gateAndTick_counts (s := clearResponse s) ha hlt
    rw [quietNext, e] at hnext ⊢
    exact .inl ⟨hnext, ha, congrArg (· + s.motionStrobes) hcount.symm⟩
  · have hr : r = true := by
      by_contra hr
      simp [Bool.eq_false_of_not_eq_true hr, hdiv] at hlt
    subst hr
    have hlast : s.div.toNat + 1 = s.period.toNat := by
      rw [Bool.toNat_true] at hlt
      omega
    have hfire : gateFires true (clearResponse s) = true := (gateFires_iff _ _).mpr ⟨ha, rfl, hlast.ge⟩
    rw [quietNext, gateAndTick_of_fire hfire] at hnext ⊢
    rw [Bool.toNat_true, hlast]
    by_cases hp : s.pending = 0
    · rw [tick_of_nothing_pending (s := { clearResponse s with div := 0 }) hp]
      exact .inr ⟨⟨hp, rfl, rfl, rfl⟩, rfl, (motionStrobes_of_nothing_pending hp).symm⟩
    · rw [tick_of_pending (s := { clearResponse s with div := 0 }) hp] at hnext ⊢
      refine .inl ⟨hnext, ha, ?_⟩
      rw [motionStrobes_stepMotor hp, Nat.add_comm]
      exact (Nat.zero_add _).symm

/-- Quiet cycles bring an armed block to rest at its strobe, and no sooner (R154). -/
theorem runCycles_quiet_completes {ps : List Pins} {s : State} (hinv : s.Inv) (ha : s.armed = true) (hq : quiet ps = true) :
    ∃ t, runCycles ps s = .next t ∧
      (s.motionStrobes ≤ s.div.toNat + strobes ps → t.AtRest ∧ t.coils = 0) ∧
      (s.div.toNat + strobes ps < s.motionStrobes → t.armed = true) := by
  induction ps generalizing s with
  | nil =>
    have hlt := (hinv.armed_div ha).trans_le (period_le_motionStrobes s)
    exact ⟨s, rfl, fun h => absurd hlt h.not_gt, fun _ => ha⟩
  | cons p ps ih =>
    obtain ⟨hps, hrun⟩ := runCycles_quiet_cons hq s
    have hstrobes := strobes_cons p ps
    rw [hrun]
    rcases quietNext_progress hinv ha p.refTick with ⟨hinv', ha', hprog⟩ | ⟨hrest, hcoils, hprog⟩
    · obtain ⟨t, ht, hend, hgoing⟩ := ih hinv' ha' hps
      exact ⟨t, ht, fun h => hend (by omega), fun h => hgoing (by omega)⟩
    · obtain ⟨t, ht, hend⟩ := runCycles_quiet_atRest hrest hcoils hps
      exact ⟨t, ht, fun _ => hend, fun h => by omega⟩

/-! SUPPORT. What turns the coils off (R108, R148). -/

/-- A command leaves `en`, or it is a STOP or a MOVE that disarms with nothing pending (R105, R107, R110). -/
theorem exec_en_kept_or_disarmed {i : Instr} {s t : State} (h : exec i s = .next t) :
    t.en = s.en ∨
    ((i = .stop ∨ ∃ df delay count, i = .move df delay count) ∧ t.armed = false ∧ t.en = false ∧ t.pending = 0) := by
  rcases exec_cases h with ⟨-, rfl⟩ | ⟨df, delay, count, hi, hm⟩ | ⟨hi, rfl⟩ | ⟨-, rfl⟩ | ⟨-, rfl⟩
  · exact .inl rfl
  · rcases execMove_next_cases hm with ⟨-, rfl⟩ | ⟨-, hp, rfl⟩ | ⟨-, -, rfl⟩ | ⟨-, -, -, -, rfl⟩ | ⟨-, -, rfl⟩
    · exact .inl rfl
    · exact .inr ⟨.inr ⟨df, delay, count, hi⟩, rfl, rfl, hp⟩
    · exact .inl rfl
    · exact .inl rfl
    · exact .inr ⟨.inr ⟨df, delay, count, hi⟩, rfl, rfl, rfl⟩
  · exact .inr ⟨.inl hi, rfl, rfl, rfl⟩
  · exact .inl rfl
  · exact .inl rfl

/-- The command port carries the STOP or the MOVE that a cycle runs (R30). -/
theorem commandOf_stop_or_move {p : Pins} (h : commandOf p = .stop ∨ ∃ df delay count, commandOf p = .move df delay count) :
    p.cmdValid = true ∧ (decode p.cmdWord = .stop ∨ ∃ df delay count, decode p.cmdWord = .move df delay count) := by
  rcases h with h | ⟨df, delay, count, h⟩
  · obtain ⟨hv, hd⟩ := (commandOf_eq_iff (i := .stop) nofun).mp h
    exact ⟨hv, .inl hd⟩
  · obtain ⟨hv, hd⟩ := (commandOf_eq_iff (i := .move df delay count) nofun).mp h
    exact ⟨hv, .inr ⟨df, delay, count, hd⟩⟩

/-! SUPPORT. Events (R151). -/

/-- Everything an event can do (R151): each case names the event and the state it leaves. -/
theorem applyEvent_cases {e : Event} {s t : State} (h : applyEvent e s = some t) :
    (∃ w u, e = .cmd w ∧ exec (decode w) (clearResponse s) = .next u ∧ t = latchCoils u) ∨
    (e = .tick ∧ s.armed = true ∧ t = latchCoils (tick (clearResponse s))) ∨
    (e = .reset ∧ t = latchCoils (applyReset s)) := by
  cases e with
  | cmd w =>
    rw [applyEvent_cmd, exec_goes_on] at h
    exact .inl ⟨w, _, rfl, exec_goes_on _ _, (Option.some.inj h).symm⟩
  | tick =>
    have ha : s.armed = true := by
      by_contra ha
      simp [applyEvent, Event.enabled, ha] at h
    rw [applyEvent_tick ha] at h
    exact .inr (.inl ⟨rfl, ha, (Option.some.inj h).symm⟩)
  | reset => exact .inr (.inr ⟨rfl, (Option.some.inj h).symm⟩)

theorem runEvents_cons (e : Event) (es : List Event) (s : State) :
    runEvents (e :: es) s = (applyEvent e s).bind (runEvents es) := rfl

/-- Events one after another are the run of the first of them and then of the rest. -/
theorem runEvents_append (es fs : List Event) (s : State) :
    runEvents (es ++ fs) s = (runEvents es s).bind (runEvents fs) := by
  induction es generalizing s with
  | nil => rfl
  | cons e es ih =>
    rw [List.cons_append, runEvents_cons, runEvents_cons, Option.bind_assoc]
    exact congrArg _ (funext ih)

theorem runEvents_singleton (e : Event) (s : State) : runEvents [e] s = applyEvent e s :=
  Option.bind_fun_some _

/-! SUPPORT. The classes of R37, by the registers that give them. -/

/-- The class is a matter of three registers. -/
theorem classOf_congr {s t : State} (hp : t.pending = s.pending) (ha : t.armed = s.armed) (he : t.en = s.en) :
    t.classOf = s.classOf := by
  rw [State.classOf, State.classOf, hp, ha, he]

theorem State.AtRest.classOf_eq {s : State} (h : s.AtRest) : s.classOf = some .idle := by
  rw [State.classOf, h.disarmed, h.coils_off, h.pending_zero]
  rfl

theorem classOf_of_pending {s : State} (ha : s.armed = true) (hp : s.pending ≠ 0) :
    s.classOf = some (if s.en = true then .stepping else .armedNoStep) := by
  rw [State.classOf, ha, beq_false_of_ne hp]
  cases s.en <;> rfl

theorem classOf_of_dwell {s : State} (ha : s.armed = true) (he : s.en = true) (hp : s.pending = 0) :
    s.classOf = some .terminalDwell := by
  rw [State.classOf, ha, he, hp]
  rfl

/-- The terminal dwell is being armed with nothing pending (R36, R37). -/
theorem State.Inv.terminalDwell_iff {s : State} (h : s.Inv) :
    s.classOf = some .terminalDwell ↔ s.armed = true ∧ s.pending = 0 := by
  cases ha : s.armed with
  | false => simp [(h.atRest ha).classOf_eq]
  | true =>
    by_cases hp : s.pending = 0
    · simp [classOf_of_dwell ha (h.dwell_energized ha hp) hp, hp]
    · rw [classOf_of_pending ha hp]
      exact iff_of_false (by cases s.en <;> nofun) (fun h => hp h.2)

/-- The coils are off in Idle and before the first step (R36, R37). -/
theorem State.Inv.coils_off_iff {s : State} (h : s.Inv) :
    s.en = false ↔ s.classOf = some .idle ∨ s.classOf = some .armedNoStep := by
  cases ha : s.armed with
  | false => simp [(h.atRest ha).classOf_eq, h.disarmed_off ha]
  | true =>
    by_cases hp : s.pending = 0
    · have he := h.dwell_energized ha hp
      simp [classOf_of_dwell ha he hp, he]
    · rw [classOf_of_pending ha hp]
      cases s.en <;> simp

/-- The rows of R152 for a MOVE. -/
theorem execMove_classOf {df : Bool} {delay : Nat} {count : Int} {s t : State} (hs : s.Inv)
    (h : execMove df delay count s = .next t) :
    t.classOf =
      if s.pending.toInt + count < -2 ^ 31 ∨ 2 ^ 31 - 1 < s.pending.toInt + count then s.classOf
      else if count = 0 then (if s.classOf = some .terminalDwell then some .idle else s.classOf)
      else if s.pending.toInt + count = 0 then some .idle
      else if s.classOf = some .idle ∨ s.classOf = some .armedNoStep then some .armedNoStep
      else some .stepping := by
  have hrange := pending_range s.pending
  rcases execMove_next_cases h with ⟨ho, rfl⟩ | ⟨hc, hp, rfl⟩ | ⟨hc, hp, rfl⟩ | ⟨hc, hl, hu, hne, rfl⟩ | ⟨hc, h0, rfl⟩
  · rw [if_pos ho]
    rfl
  · rw [if_neg (by omega), if_pos hc]
    have hidle : (disarm s).classOf = some .idle := State.AtRest.classOf_eq ⟨hp, rfl, rfl, rfl⟩
    rw [hidle]
    split_ifs with hdwell
    · rfl
    · have hoff : s.armed = false := by
        by_contra ha
        exact hdwell (hs.terminalDwell_iff.mpr ⟨Bool.eq_true_of_not_eq_false ha, hp⟩)
      exact (hs.atRest hoff).classOf_eq.symm
  · rw [if_neg (by omega), if_pos hc, if_neg (fun hdwell => hp (hs.terminalDwell_iff.mp hdwell).2)]
  · rw [if_neg (by omega), if_neg hc, if_neg hne]
    have hpending : stepsOf (s.pending.toInt + count) ≠ 0 := by
      rw [ne_eq, pending_eq_zero_iff, toInt_stepsOf hl hu]
      exact hne
    refine (classOf_of_pending rfl hpending).trans ?_
    split_ifs with hen hoff hoff
    · exact absurd (hs.coils_off_iff.mpr hoff) (by simpa using hen)
    · rfl
    · rfl
    · exact absurd (hs.coils_off_iff.mp (by simpa using hen)) hoff
  · rw [if_neg (by omega), if_neg hc, if_pos h0]
    exact State.AtRest.classOf_eq ⟨rfl, rfl, rfl, rfl⟩

/-- The rows of R152 for a tick. -/
theorem tick_classOf {s : State} (hs : s.Inv) (ha : s.armed = true) :
    (tick s).classOf =
      if s.classOf = some .terminalDwell then some .idle
      else if s.pending.toInt.natAbs = 1 then some .terminalDwell else some .stepping := by
  by_cases hp : s.pending = 0
  · rw [if_pos (hs.terminalDwell_iff.mpr ⟨ha, hp⟩), tick_of_nothing_pending hp]
    exact State.AtRest.classOf_eq ⟨hp, rfl, rfl, rfl⟩
  · rw [if_neg (fun hdwell => hp (hs.terminalDwell_iff.mp hdwell).2), tick_of_pending hp]
    have hleft := stepMotor_pending_natAbs hp
    have hzero : (stepMotor s).pending = 0 ↔ s.pending.toInt.natAbs = 1 := by
      rw [pending_eq_zero_iff]
      omega
    split_ifs with h1
    · exact classOf_of_dwell ha rfl (hzero.mpr h1)
    · exact classOf_of_pending ha (hzero.not.mpr h1)

/-- A command that is neither MOVE nor STOP keeps the class (R152). -/
theorem exec_classOf_frame {i : Instr} {s t : State} (h : exec i s = .next t) (hs : i ≠ .stop)
    (hm : ∀ df delay count, i ≠ .move df delay count) : t.classOf = s.classOf := by
  obtain ⟨hp, ha, he, -⟩ := exec_motion_frame h hs hm
  exact classOf_congr hp ha he

/-! SUPPORT. The displacement along events (R153). -/

theorem displacement_emod (s : State) : s.displacement % 8 = s.displacement := Int.emod_emod _ _

/-- A command adds its contribution to `pending` (R102, R104, R110, R153). -/
theorem exec_pending_contribution {w : CmdWord} {s t : State} (h : exec (decode w) s = .next t) :
    t.pending.toInt = s.pending.toInt + (Event.cmd w).contribution s := by
  have hkept := exec_motion_frame h
  unfold Event.contribution
  dsimp only
  generalize decode w = i at h hkept
  cases i with
  | move df delay count =>
    simp only [execMove_pending_toInt h, exactSum, fitsPending_iff]
    split_ifs
    · rfl
    · exact (Int.add_zero _).symm
  | stop =>
    obtain rfl := Host.Outcome.next.inj h
    exact (Int.add_right_neg _).symm
  | nop => simp [(hkept nofun nofun).1]
  | status => simp [(hkept nofun nofun).1]
  | reservedLow op => simp [(hkept nofun nofun).1]
  | reservedHigh op => simp [(hkept nofun nofun).1]

/-- One event other than a reset (R153). -/
theorem displacement_applyEvent {e : Event} {s t : State} (he : e ≠ .reset) (h : applyEvent e s = some t) :
    t.displacement = (s.displacement + e.contribution s) % 8 := by
  rcases applyEvent_cases h with ⟨w, u, rfl, hu, rfl⟩ | ⟨rfl, -, rfl⟩ | ⟨rfl, -⟩
  · obtain ⟨hphase, -⟩ := exec_frame hu
    have hpending : u.pending.toInt = s.pending.toInt + (Event.cmd w).contribution s := (exec_pending_contribution hu :)
    rw [State.displacement, latchCoils_phase, latchCoils_pending, hphase, clearResponse_phase, hpending, State.displacement]
    omega
  · rw [Event.contribution, Int.add_zero, displacement_emod]
    exact displacement_tick (clearResponse s)
  · exact absurd rfl he

theorem netContribution_cons {e : Event} {s u : State} (h : applyEvent e s = some u) (es : List Event) :
    netContribution (e :: es) s = e.contribution s + netContribution es u := by
  rw [netContribution, h]

/-! SUPPORT. Ticks one after another (R145, R154). -/

/-- The direction stays the same until nothing is pending (R143). -/
theorem sign_sub_mul_sign {x : Int} {k : Nat} (h : k < x.natAbs) : Int.sign (x - k * Int.sign x) = Int.sign x := by
  rcases Int.lt_trichotomy x 0 with hx | hx | hx
  · rw [Int.sign_eq_neg_one_of_neg hx]
    exact Int.sign_eq_neg_one_of_neg (by omega)
  · simp [hx] at h
  · rw [Int.sign_eq_one_of_pos hx]
    exact Int.sign_eq_one_of_pos (by omega)

/-- Up to the last half-step every tick finds something pending: it steps, keeps the gate armed and shows its pattern (R143). -/
theorem runEvents_steppingTicks {s : State} (ha : s.armed = true) {k : Nat} (hk : k ≤ s.pending.toInt.natAbs) :
    ∃ u, runEvents (List.replicate k .tick) s = some u ∧ u.armed = true ∧
      u.pending.toInt = s.pending.toInt - k * Int.sign s.pending.toInt ∧ u.displacement = s.displacement ∧
      (1 ≤ k → u.en = true ∧ u.coils = romSequence u.phase) := by
  induction k with
  | zero => exact ⟨s, rfl, ha, by simp, rfl, nofun⟩
  | succ k ih =>
    obtain ⟨u, hu, harmed, hpending, hdisp, -⟩ := ih (Nat.le_of_succ_le hk)
    have hsign : direction u.pending = Int.sign s.pending.toInt := by
      rw [direction, hpending, sign_sub_mul_sign hk]
    have hne : (clearResponse u).pending ≠ 0 := by
      rw [clearResponse_pending]
      intro h0
      rw [h0] at hsign
      have hzero := Int.sign_eq_zero_iff_zero.mp hsign.symm
      omega
    refine ⟨latchCoils (stepMotor (clearResponse u)), ?_, harmed, ?_, ?_, fun _ => ⟨rfl, rfl⟩⟩
    · rw [List.replicate_succ', runEvents_append, hu, Option.bind_some, runEvents_singleton, applyEvent_tick harmed,
        tick_of_pending hne]
    · rw [latchCoils_pending, stepMotor_pending_toInt, clearResponse_pending, hsign, hpending]
      push_cast
      ring
    · exact (displacement_stepMotor (clearResponse u)).trans hdisp

/-! SUPPORT. What the untimed part of a state decides (R151). -/

/-- A state with the given untimed part, its divider, ports and schedule as after a reset. -/
def UntimedView.toState (v : UntimedView) : State :=
  { State.reset with phase := v.phase, pending := v.pending, period := v.period, armed := v.armed, en := v.en, ovf := v.ovf,
                     ill := v.ill }

section untimedPart
variable (s : State)

theorem tick_untimed : (tick s).untimed = (tick s.untimed.toState).untimed :=
  (apply_ite State.untimed (s.pending ≠ 0) (stepMotor s) (disarm s)).trans
    (apply_ite State.untimed (s.pending ≠ 0) (stepMotor s.untimed.toState) (disarm s.untimed.toState)).symm

theorem moveNothing_untimed : (moveNothing s).untimed = (moveNothing s.untimed.toState).untimed :=
  (apply_ite State.untimed (s.pending = 0) (disarm s) s).trans
    (apply_ite State.untimed (s.pending = 0) (disarm s.untimed.toState) s.untimed.toState).symm

theorem acceptMove_untimed (df : Bool) (delay : Nat) (count : Int) :
    (acceptMove df delay count s).untimed = (acceptMove df delay count s.untimed.toState).untimed := by
  have hpending : s.untimed.toState.pending = s.pending := rfl
  unfold acceptMove
  rw [hpending]
  dsimp only
  split_ifs <;> rfl

/-- A MOVE reads `pending` and nothing of the clock (R102). -/
theorem execMove_untimed (df : Bool) (delay : Nat) (count : Int) :
    (nextOf (execMove df delay count s)).map State.untimed =
      (nextOf (execMove df delay count s.untimed.toState)).map State.untimed := by
  have hpending : s.untimed.toState.pending = s.pending := rfl
  unfold execMove
  rw [hpending]
  split_ifs
  · exact congrArg some (moveNothing_untimed s)
  · exact congrArg some (acceptMove_untimed s df delay count)
  · rfl

theorem exec_untimed (i : Instr) :
    (nextOf (exec i s)).map State.untimed = (nextOf (exec i s.untimed.toState)).map State.untimed := by
  cases i with
  | move df delay count => exact execMove_untimed s df delay count
  | nop => rfl
  | stop => rfl
  | status => rfl
  | reservedLow op => rfl
  | reservedHigh op => rfl

end untimedPart

theorem tick_untimed_congr {s s' : State} (h : s.untimed = s'.untimed) : (tick s).untimed = (tick s').untimed := by
  rw [tick_untimed s, h, ← tick_untimed]

theorem exec_untimed_congr {s s' : State} (h : s.untimed = s'.untimed) (i : Instr) :
    (nextOf (exec i s)).map State.untimed = (nextOf (exec i s')).map State.untimed := by
  rw [exec_untimed s, h, ← exec_untimed]

/-- A Tick is enabled by `armed`, and what TICK and the commands leave is decided by the untimed part (R151). -/
theorem applyEvent_untimed_congr {s s' : State} (h : s.untimed = s'.untimed) (e : Event) :
    (applyEvent e s).map State.untimed = (applyEvent e s').map State.untimed := by
  cases e with
  | cmd w =>
    rw [applyEvent_cmd, applyEvent_cmd, Option.map_map, Option.map_map]
    exact exec_untimed_congr (s := clearResponse s) (s' := clearResponse s') h (decode w)
  | tick =>
    have harmed : s.armed = s'.armed := congrArg UntimedView.armed h
    cases ha : s.armed with
    | false => simp [applyEvent, Event.enabled, ha, ← harmed]
    | true =>
      rw [applyEvent_tick ha, applyEvent_tick (harmed ▸ ha)]
      exact congrArg some (tick_untimed_congr (s := clearResponse s) (s' := clearResponse s') h)
  | reset => rfl

/-! SUPPORT. The events of a run (R151). -/

/-- Event runs from states with the same untimed part stay in step. -/
theorem runEvents_untimed_congr {es : List Event} {s s' t : State} (hs : s.untimed = s'.untimed) (h : runEvents es s = some t) :
    ∃ t', runEvents es s' = some t' ∧ t'.untimed = t.untimed := by
  induction es generalizing s s' with
  | nil =>
    obtain rfl := Option.some.inj h
    exact ⟨s', rfl, hs.symm⟩
  | cons e es ih =>
    obtain ⟨u, hu, ht⟩ := Option.bind_eq_some_iff.mp h
    have hevent := applyEvent_untimed_congr hs e
    rw [hu] at hevent
    obtain ⟨u', hu', hview⟩ := Option.map_eq_some_iff.mp hevent.symm
    rw [runEvents_cons, hu', Option.bind_some]
    exact ih hview.symm ht

/-- A fire is a Tick event; otherwise the gate writes nothing but `div` (R140, R151). -/
theorem runEvents_tickEvents (r : Bool) (s : State) :
    ∃ v, runEvents (tickEvents r s) s = some v ∧ v.untimed = (beforeCommand r s).untimed := by
  by_cases hf : gateFires r s = true
  · obtain ⟨ha, -⟩ := (gateFires_iff r s).mp hf
    rw [tickEvents, if_pos hf, runEvents_singleton, applyEvent_tick ha, beforeCommand,
      gateAndTick_of_fire (s := clearResponse s) hf]
    exact ⟨_, rfl, tick_untimed_congr (s := clearResponse s) (s' := { clearResponse s with div := 0 }) rfl⟩
  · obtain ⟨d, e⟩ := gateAndTick_of_no_fire (s := clearResponse s) (Bool.eq_false_of_not_eq_true hf)
    rw [tickEvents, if_neg hf, beforeCommand, e]
    exact ⟨s, rfl, rfl⟩

/-- The events of one cycle are enabled in turn and leave its registers (R151). -/
theorem runEvents_cycleEvents {p : Pins} {s t : State} (h : cycle p s = .next t) :
    ∃ u, runEvents (cycleEvents p s) s = some u ∧ u.untimed = t.untimed := by
  obtain ⟨v, hv, hview⟩ := runEvents_tickEvents p.refTick s
  rcases cycle_cases h with ⟨hr, rfl⟩ | ⟨hr, hc, rfl⟩ | ⟨hr, hc, u, hu, rfl⟩
  · rw [cycleEvents, if_pos hr]
    exact ⟨_, rfl, rfl⟩
  · refine ⟨v, ?_, hview⟩
    simp [cycleEvents, commandEvents, hr, hc, hv]
  · have hexec := exec_untimed_congr (s := beforeCommand p.refTick s) (s' := clearResponse v) hview.symm (decode p.cmdWord)
    rw [hu] at hexec
    obtain ⟨u', hu', hsame⟩ := Option.map_eq_some_iff.mp hexec.symm
    refine ⟨latchCoils u', ?_, hsame⟩
    simp [cycleEvents, commandEvents, hr, hc, runEvents_append, hv, runEvents_singleton, applyEvent_cmd, hu']

theorem eventsOf_cons {p : Pins} {s u : State} (h : cycle p s = .next u) (ps : List Pins) :
    eventsOf (p :: ps) s = cycleEvents p s ++ eventsOf ps u := by
  rw [eventsOf, h]
  rfl

/-! SUPPORT. The schedule is read by the step alone, when it takes the inputs of its cycle (log 1). -/

/-- The same registers and ports with another schedule. -/
def State.withInputs (qs : List Pins) (s : State) : State := { s with inputs := qs }

section schedule
variable (qs : List Pins) (s : State)

theorem tick_withInputs : tick (s.withInputs qs) = (tick s).withInputs qs :=
  (apply_ite (State.withInputs qs) (s.pending ≠ 0) (stepMotor s) (disarm s)).symm

theorem applyGate_withInputs (r : Bool) : applyGate r (s.withInputs qs) = (applyGate r s).withInputs qs :=
  (apply_ite (State.withInputs qs) (s.armed && r)
    { s with div := if s.period.toNat ≤ s.div.toNat + 1 then 0 else s.div + 1 } s).symm

theorem gateAndTick_withInputs (r : Bool) : gateAndTick r (s.withInputs qs) = (gateAndTick r s).withInputs qs := by
  rw [gateAndTick, applyGate_withInputs, tick_withInputs]
  exact (apply_ite (State.withInputs qs) (gateFires r s) (tick (applyGate r s)) (applyGate r s)).symm

theorem moveNothing_withInputs : moveNothing (s.withInputs qs) = (moveNothing s).withInputs qs :=
  (apply_ite (State.withInputs qs) (s.pending = 0) (disarm s) s).symm

theorem acceptMove_withInputs (df : Bool) (delay : Nat) (count : Int) :
    acceptMove df delay count (s.withInputs qs) = (acceptMove df delay count s).withInputs qs := by
  have hpending : (s.withInputs qs).pending = s.pending := rfl
  unfold acceptMove
  rw [hpending]
  dsimp only
  split_ifs <;> rfl

end schedule

theorem exec_withInputs {i : Instr} {s t : State} (h : exec i s = .next t) (qs : List Pins) :
    exec i (s.withInputs qs) = .next (t.withInputs qs) := by
  rcases exec_cases h with ⟨rfl, rfl⟩ | ⟨df, delay, count, rfl, hm⟩ | ⟨rfl, rfl⟩ | ⟨rfl, rfl⟩ | ⟨hi, rfl⟩
  · rfl
  · have hpending : (s.withInputs qs).pending = s.pending := rfl
    obtain rfl := Host.Outcome.next.inj hm
    rw [exec_move, execMove, hpending, moveNothing_withInputs, acceptMove_withInputs]
    split_ifs <;> rfl
  · rfl
  · rfl
  · rcases hi with ⟨op, rfl⟩ | ⟨op, rfl⟩ <;> rfl

/-- A cycle does the same with another schedule, and leaves the schedule alone. -/
theorem cycle_withInputs {p : Pins} {s t : State} (h : cycle p s = .next t) (qs : List Pins) :
    cycle p (s.withInputs qs) = .next (t.withInputs qs) := by
  have hbefore : beforeCommand p.refTick (s.withInputs qs) = (beforeCommand p.refTick s).withInputs qs :=
    gateAndTick_withInputs qs (clearResponse s) p.refTick
  rcases cycle_cases h with ⟨hr, rfl⟩ | ⟨hr, hc, rfl⟩ | ⟨hr, hc, u, hu, rfl⟩
  · exact cycle_reset hr _
  · rw [cycle_noCommand hr hc, hbefore]
    rfl
  · rw [cycle_command hr hc, hbefore, exec_withInputs hu, andThen_next]
    rfl

/-! PROOFS. The tick gate, the tick step, the mux, the cycle and the events (spec/42_tick_gate_and_output.md). -/

/-- Settles O14: the latched coils follow `en` and `phase`, and a cycle changes these by a tick or a
disarming command. -/
theorem coilsChangeOnlyAtTickOrDisarm : Obligations.CoilsChangeOnlyAtTickOrDisarm := by
  intro s t hs h hne
  have hmux := (everyCycleLatchesTheOutputs s t h).coils_mux
  have hsame : ¬ (t.en = s.en ∧ t.phase = s.phase) := fun ⟨he, hp⟩ => hne (by rw [hmux, he, hp, hs.coils_mux])
  refine ⟨not_and_or.mp hsame, ?_⟩
  rcases step_cases h with ⟨hr, rfl⟩ | ⟨hr, u, hu, rfl⟩
  · exact .inr ⟨rfl, .inl hr⟩
  · obtain ⟨hphase, -⟩ := exec_frame hu
    rw [latchCoils_coils] at hmux ⊢
    rcases exec_en_kept_or_disarmed hu with hen | ⟨hi, ha, hen, hp⟩
    · rcases ticked_cases s with ⟨hf, -, hp, e⟩ | ⟨hf, -, hp, e⟩ | ⟨-, d, e⟩
      · exact .inl ⟨hr, hf, hp, by rw [hen, e]; rfl⟩
      · exact .inr ⟨by rw [hen, e]; rfl, .inr (.inl ⟨hf, hp⟩)⟩
      · rw [e] at hen hphase
        exact absurd ⟨hen.trans (takePins_en s), hphase.trans (takePins_phase s)⟩ hsame
    · obtain ⟨hv, hd⟩ := commandOf_stop_or_move hi
      exact .inr ⟨by rw [hen, mux_off], .inr (.inr ⟨hv, ha, hp, hd⟩)⟩

/-- Settles O29: up to the strobe before the `period`-th the gate only counts, so the next one fires exactly there. -/
theorem tickComesOnThePeriodthStrobe : Obligations.TickComesOnThePeriodthStrobe := by
  intro s ps p ha h0 _ hq hlt
  have hdiv : s.div.toNat + strobes ps = strobes ps := by rw [h0]; exact Nat.zero_add _
  obtain ⟨t, ht, hcount, hphase, hpending, hen, harmed, hperiod⟩ := runCycles_quiet_counts ha hq (hdiv.trans_lt hlt)
  rw [hdiv] at hcount
  refine ⟨t, ht, hcount, hphase, hpending, hen, harmed, hperiod, ?_⟩
  rw [gateFires_iff, harmed, hcount, hperiod]
  exact ⟨fun ⟨_, hr, hp⟩ => ⟨hr, by omega⟩, fun ⟨hr, hp⟩ => ⟨rfl, hr, hp.ge⟩⟩

/-- Settles O42, by induction on the scheduled inputs: each step takes one entry and is the cycle with it. -/
theorem runFollowsTheInputSchedule : Obligations.RunFollowsTheInputSchedule := by
  intro ps rest
  induction ps with
  | nil => exact fun s => rfl
  | cons p ps ih =>
    intro s
    obtain ⟨u, hu⟩ : ∃ u, cycle p s = .next u := ⟨_, cycle_goes_on p s⟩
    have hstep : step (s.withInputs (p :: ps ++ rest)) = .next (u.withInputs (ps ++ rest)) := cycle_withInputs hu (ps ++ rest)
    have hcycles := runCycles_cons_next (cycle_withInputs hu rest) ps
    exact (core_run_succ hstep ps.length).trans ((ih u).trans hcycles.symm)

/-- Settles O47: each event's rows of the table, MOVE and tick by their own lemmas. -/
theorem classTransitionsFollowTheTable : Obligations.ClassTransitionsFollowTheTable := by
  intro s t e hs h
  rcases applyEvent_cases h with ⟨w, u, rfl, hu, rfl⟩ | ⟨rfl, ha, rfl⟩ | ⟨rfl, rfl⟩
  · change u.classOf = _
    dsimp only
    generalize decode w = i at hu
    cases i with
    | move df delay count => exact (execMove_classOf (clearResponse_inv hs) hu :)
    | stop => exact (atRest_of_exec_stop hu).classOf_eq
    | nop => exact (exec_classOf_frame hu nofun nofun :)
    | status => exact (exec_classOf_frame hu nofun nofun :)
    | reservedLow op => exact (exec_classOf_frame hu nofun nofun :)
    | reservedHigh op => exact (exec_classOf_frame hu nofun nofun :)
  · exact tick_classOf (s := clearResponse s) (clearResponse_inv hs) ha
  · rfl

/-- Settles O49, by induction on the events: each one adds its contribution to the displacement. -/
theorem displacementLaw : Obligations.DisplacementLaw := by
  refine ⟨fun es => ?_, fun s t h => ?_⟩
  · induction es with
    | nil =>
      intro s t _ h
      obtain rfl := Option.some.inj h
      rw [netContribution, Int.add_zero, displacement_emod]
    | cons e es ih =>
      intro s t hes h
      obtain ⟨he, hrest⟩ := List.ne_and_not_mem_of_not_mem_cons hes
      obtain ⟨u, hu, ht⟩ := Option.bind_eq_some_iff.mp h
      rw [ih u t hrest ht, displacement_applyEvent (Ne.symm he) hu, netContribution_cons hu]
      omega
  · obtain rfl := Option.some.inj h
    rfl

/-- Settles O50: |P| stepping ticks and the terminal one; the displacement stays, and with it each phase is known. -/
theorem ticksRunToIdle : Obligations.TicksRunToIdle := by
  intro s ha
  refine ⟨fun k h1 hk => ?_, ?_⟩
  · obtain ⟨u, hu, harmed, hpending, hdisp, hshown⟩ := runEvents_steppingTicks ha hk
    obtain ⟨hen, hcoils⟩ := hshown h1
    have hlt := u.phase.isLt
    rw [State.displacement, State.displacement, hpending] at hdisp
    exact ⟨u, hu, harmed, hen, hpending, by omega, hcoils⟩
  · obtain ⟨u, hu, harmed, hpending, hdisp, -⟩ := runEvents_steppingTicks ha le_rfl
    have h0 : u.pending = 0 := by
      rw [pending_eq_zero_iff, hpending, Int.mul_comm, Int.sign_mul_natAbs, Int.sub_self]
    refine ⟨latchCoils (disarm (clearResponse u)), ?_, State.AtRest.classOf_eq ⟨h0, rfl, rfl, rfl⟩, rfl, ?_⟩
    · rw [List.replicate_succ', runEvents_append, hu, Option.bind_some, runEvents_singleton, applyEvent_tick harmed,
        tick_of_nothing_pending (s := clearResponse u) h0]
    · exact (phase_eq_displacement h0).trans hdisp

/-- Settles O51: the block comes to rest at its strobe, and with nothing pending the phase is the displacement, which stayed. -/
theorem motionEndsOnTime : Obligations.MotionEndsOnTime := by
  intro ps s hinv ha hq
  obtain ⟨t, ht, hend, hgoing⟩ := runCycles_quiet_completes hinv ha hq
  refine ⟨t, ht, fun h => ?_, hgoing⟩
  obtain ⟨hrest, hcoils⟩ := hend h
  have hphase := (phase_eq_displacement hrest.pending_zero).trans (displacement_runCycles_quiet hq ht)
  exact ⟨hrest.disarmed, hrest.coils_off, hrest.pending_zero, hcoils, hphase⟩

/-- Settles O53, by induction on the cycles: the events of the rest run from the event state too, since it agrees with the
block's in its untimed part. -/
theorem everyRunIsAnEventRun : Obligations.EveryRunIsAnEventRun := by
  intro ps
  induction ps with
  | nil =>
    intro s t h
    obtain rfl := Host.Outcome.next.inj h
    exact ⟨s, rfl, rfl⟩
  | cons p ps ih =>
    intro s t h
    obtain ⟨u, hu⟩ : ∃ u, cycle p s = .next u := ⟨_, cycle_goes_on p s⟩
    obtain ⟨v, hv, hview⟩ := runEvents_cycleEvents hu
    obtain ⟨w, hw, hwt⟩ := ih u t (runCycles_cons_next hu ps ▸ h)
    obtain ⟨w', hw', hsame⟩ := runEvents_untimed_congr hview.symm hw
    refine ⟨w', ?_, hsame.trans hwt⟩
    rw [eventsOf_cons hu, runEvents_append, hv, Option.bind_some, hw']

/-- Settles O54: agreement in the untimed part is what every event keeps. -/
theorem eventsIgnoreTheClock : Obligations.EventsIgnoreTheClock := fun e _ _ h => applyEvent_untimed_congr h e

/-- Settles O13: the output registers are latched from the state the cycle ends in. -/
theorem coilsFollowTheMux : Obligations.CoilsFollowTheMux :=
  fun s t h => (everyCycleLatchesTheOutputs s t h).coils_mux

/-- Settles O27: a strobe completes the period or counts toward it, and the invariants keep `div` at 0 while disarmed. -/
theorem gateCountsAndFires : Obligations.GateCountsAndFires := by
  intro r s
  refine ⟨fun ha hr hp => ?_, fun ha hr hlt => ?_, fun hoff => ⟨?_, gateAndTick_of_no_count hoff⟩, fun hinv => hinv.disarmed_div⟩
  · have hf := (gateFires_iff r s).mpr ⟨ha, hr, hp⟩
    exact ⟨hf, gateAndTick_of_fire hf⟩
  · subst hr
    obtain ⟨hf, d, e, hcount⟩ := gateAndTick_counts (r := true) ha hlt
    exact ⟨hf, by rw [e]; exact hcount, by rw [e]⟩
  · rcases hoff with h | h <;> simp [gateFires, h]

/-- Settles O28: the half-step and the disarm, with the exact values of the half-step's registers. -/
theorem tickStepsTowardZero : Obligations.TickStepsTowardZero := by
  intro s
  refine ⟨fun hp => ?_, tick_of_nothing_pending⟩
  rw [tick_of_pending hp]
  exact ⟨stepMotor_phase_toNat s, stepMotor_pending_toInt s, rfl⟩

/-- Settles O30: a cycle without a command has the command NOP. -/
theorem stepRunsTheDecodedCommand : Obligations.StepRunsTheDecodedCommand := by
  intro s
  refine ⟨step_reset, fun hr hv u hu => ?_, fun hr hv t ht => step_of_exec hr ?_⟩
  · subst hu
    exact step_of_exec hr (by rw [commandOf_invalid hv]; rfl)
  · rw [commandOf_valid hv]
    exact ht

end Sys2Proof.Machine

namespace Sys2Proof.Machine

/-! SUPPORT. Which command records which error (R171, R172). -/

/-- A command of a reserved OP, the cause of IllegalCommand (R172). -/
def IsReserved (i : Instr) : Prop := (∃ op, i = .reservedLow op) ∨ ∃ op, i = .reservedHigh op

/-- A MOVE whose exact sum leaves the range of `pending`, the cause of Overflow (R171). -/
def MoveOverflows (i : Instr) (pending : Steps) : Prop :=
  ∃ df delay count, i = .move df delay count ∧ (pending.toInt + count < -2 ^ 31 ∨ 2 ^ 31 - 1 < pending.toInt + count)

theorem isReserved_decode_iff (w : CmdWord) : IsReserved (decode w) ↔ 4 ≤ (w.extractLsb 63 60).toNat := by
  change _ ↔ 4 ≤ opField w
  rcases decode_cases w with ⟨h, e⟩ | ⟨h, e⟩ | ⟨h, e⟩ | ⟨h, e⟩ | ⟨h, -, e⟩ | ⟨h, e⟩ <;> rw [e] <;> simp [IsReserved] <;> omega

/-- What NOP is not, only a command on the command port can be (R30, R115). -/
theorem commandOf_iff {P : Instr → Prop} (hnop : ¬ P .nop) (p : Pins) :
    P (commandOf p) ↔ p.cmdValid = true ∧ P (decode p.cmdWord) := by
  cases h : p.cmdValid with
  | false => simp [commandOf_invalid h, hnop]
  | true => simp [commandOf_valid h]

theorem not_isReserved_nop : ¬ IsReserved .nop := by simp [IsReserved]

theorem not_moveOverflows_nop (pending : Steps) : ¬ MoveOverflows .nop pending := by simp [MoveOverflows]

theorem MoveOverflows.not_isReserved {i : Instr} {pending : Steps} (h : MoveOverflows i pending) : ¬ IsReserved i := by
  obtain ⟨df, delay, count, rfl, -⟩ := h
  simp [IsReserved]

theorem exec_of_moveOverflows {i : Instr} {s : State} (h : MoveOverflows i s.pending) :
    exec i s = .next { s with ovf := true } := by
  obtain ⟨df, delay, count, rfl, ho⟩ := h
  exact moveOverflowSetsOnlyOvf s df delay count ho

theorem exec_of_isReserved {i : Instr} {s : State} (h : IsReserved i) : exec i s = .next { s with ill := true } := by
  rcases h with ⟨op, rfl⟩ | ⟨op, rfl⟩ <;> rfl

/-- A command that is no error records none (R175). -/
theorem exec_flags_of_no_error {i : Instr} {s t : State} (h : exec i s = .next t) (hm : ¬ MoveOverflows i s.pending)
    (hr : ¬ IsReserved i) : t.ovf = s.ovf ∧ t.ill = s.ill := by
  rcases exec_cases h with ⟨-, rfl⟩ | ⟨df, delay, count, rfl, he⟩ | ⟨-, rfl⟩ | ⟨-, rfl⟩ | ⟨hi, -⟩
  · exact ⟨rfl, rfl⟩
  · refine execMove_flags_of_fits he ?_
    have hfits : ¬ (s.pending.toInt + count < -2 ^ 31 ∨ 2 ^ 31 - 1 < s.pending.toInt + count) :=
      fun ho => hm ⟨df, delay, count, rfl, ho⟩
    omega
  · exact ⟨rfl, rfl⟩
  · exact ⟨rfl, rfl⟩
  · exact absurd hi hr

/-- Everything a command can do to the flags: record one of the two errors and nothing else, or leave both (R178). -/
theorem exec_error_cases {i : Instr} {s t : State} (h : exec i s = .next t) :
    (MoveOverflows i s.pending ∧ ¬ IsReserved i ∧ t = { s with ovf := true }) ∨
    (¬ MoveOverflows i s.pending ∧ IsReserved i ∧ t = { s with ill := true }) ∨
    (¬ MoveOverflows i s.pending ∧ ¬ IsReserved i ∧ t.ovf = s.ovf ∧ t.ill = s.ill) := by
  by_cases hm : MoveOverflows i s.pending
  · exact .inl ⟨hm, hm.not_isReserved, Host.Outcome.next.inj (h.symm.trans (exec_of_moveOverflows hm))⟩
  · by_cases hr : IsReserved i
    · exact .inr (.inl ⟨hm, hr, Host.Outcome.next.inj (h.symm.trans (exec_of_isReserved hr))⟩)
    · exact .inr (.inr ⟨hm, hr, exec_flags_of_no_error h hm hr⟩)

/-- `ovf` gains exactly the overflowing MOVEs and is never cleared (R171, R177). -/
theorem exec_ovf_iff {i : Instr} {s t : State} (h : exec i s = .next t) :
    t.ovf = true ↔ s.ovf = true ∨ MoveOverflows i s.pending := by
  rcases exec_error_cases h with ⟨hm, -, rfl⟩ | ⟨hm, -, rfl⟩ | ⟨hm, -, hovf, -⟩
  · simp [hm]
  · simp [hm]
  · simp [hm, hovf]

/-- `ill` gains exactly the reserved OPs and is never cleared (R172, R177). -/
theorem exec_ill_iff {i : Instr} {s t : State} (h : exec i s = .next t) :
    t.ill = true ↔ s.ill = true ∨ IsReserved i := by
  rcases exec_error_cases h with ⟨-, hr, rfl⟩ | ⟨-, hr, rfl⟩ | ⟨-, hr, -, hill⟩
  · simp [hr]
  · simp [hr]
  · simp [hr, hill]

@[simp] theorem ticked_ovf (s : State) : (ticked s).ovf = s.ovf := by simp [ticked_eq]

@[simp] theorem ticked_ill (s : State) : (ticked s).ill = s.ill := by simp [ticked_eq]

/-- The tick step leaves the flags, so a cycle other than a reset changes one of them at most (R178). -/
theorem step_ovf_or_ill_kept {s t : State} (hr : s.pins.rst = false) (h : step s = .next t) :
    t.ovf = s.ovf ∨ t.ill = s.ill := by
  rcases step_cases h with ⟨hr', -⟩ | ⟨-, u, hu, rfl⟩
  · simp [hr] at hr'
  · rcases exec_error_cases hu with ⟨-, -, rfl⟩ | ⟨-, -, rfl⟩ | ⟨-, -, hovf, -⟩
    · exact .inr (ticked_ill s)
    · exact .inl (ticked_ovf s)
    · exact .inl (hovf.trans (ticked_ovf s))

/-! SUPPORT. The fault that a state stands for (R170). -/

/-- Everything the fault model can answer after a cycle (R170). -/
theorem stopOnRecorded_cases (s : State) :
    (s.ovf = true ∧ stopOnRecorded s = .fault .overflow) ∨
    (s.ovf = false ∧ s.ill = true ∧ stopOnRecorded s = .fault .illegalCommand) ∨
    (s.ovf = false ∧ s.ill = false ∧ stopOnRecorded s = .next s) := by
  cases ho : s.ovf with
  | true => exact .inl ⟨rfl, by simp [stopOnRecorded, recordedFault, ho]⟩
  | false =>
    cases hi : s.ill with
    | true => exact .inr (.inl ⟨rfl, rfl, by simp [stopOnRecorded, recordedFault, ho, hi]⟩)
    | false => exact .inr (.inr ⟨rfl, rfl, by simp [stopOnRecorded, recordedFault, ho, hi]⟩)

/-- Each answer of the fault model tells which flags are set. -/
theorem stopOnRecorded_eq_iff (s : State) :
    (stopOnRecorded s = .fault .illegalCommand ↔ s.ovf = false ∧ s.ill = true) ∧
    (stopOnRecorded s = .fault .overflow ↔ s.ovf = true) ∧
    (stopOnRecorded s = .next s ↔ s.ovf = false ∧ s.ill = false) := by
  rcases stopOnRecorded_cases s with ⟨ho, e⟩ | ⟨ho, hi, e⟩ | ⟨ho, hi, e⟩
  · simp [e, ho]
  · simp [e, ho, hi]
  · simp [e, ho, hi]

theorem strictStep_of_step {s t : State} (h : step s = .next t) : strictStep s = stopOnRecorded t := by
  rw [strictStep, h, andThen_next]

/-! SUPPORT. The platform (R173, R185). -/

/-- A binding may be built exactly if PIN_MAP is injective and the reference is there (R173). -/
theorem bindable_iff (b : InstanceParams) :
    bindable b = true ↔ (∀ i j : Fin 4, b.pinMap[i] = b.pinMap[j] → i = j) ∧ b.hasRefTick = true := by
  have hlist : b.pinMap.toList = List.ofFn fun i : Fin 4 => b.pinMap[i] :=
    List.ext_getElem (by simp) fun _ _ _ => by rw [List.getElem_ofFn]; rfl
  rw [bindable, Bool.and_eq_true, decide_eq_true_eq, hlist, List.nodup_ofFn]
  rfl

theorem stepInstance_of_step {k : Nat} {ps : Platform} {s t : State} (hk : ps[k]? = some s) (h : step s = .next t) :
    stepInstance k ps = some (ps.set k t) := by
  simp [stepInstance, hk, h]

/-! PROOFS. Errors, the fault model and the platform (spec/60_exceptions.md). -/

/-- Settles O39: the tick step leaves the flags and the value `m`, and the command after it records its own error. -/
theorem flagsStickUntilReset : Obligations.FlagsStickUntilReset := by
  intro s t h
  rcases step_cases h with ⟨hr, rfl⟩ | ⟨hr, u, hu, rfl⟩
  · simp [hr]
  · refine ⟨by simp [hr], fun _ => ⟨?_, fun m hm => ?_⟩⟩
    · rw [latchCoils_ill, exec_ill_iff hu, ticked_ill, commandOf_iff not_isReserved_nop, isReserved_decode_iff]
    · rw [← ticked_pending_toInt] at hm
      subst hm
      have hcause := commandOf_iff (P := (MoveOverflows · (ticked s).pending)) (not_moveOverflows_nop _) s.pins
      rw [latchCoils_ovf, exec_ovf_iff hu, ticked_ovf, hcause]
      rfl

/-- Settles O25: the cases of a command's errors exclude each other. -/
theorem oneErrorPerCommand : Obligations.OneErrorPerCommand := by
  intro i s t h
  rcases exec_error_cases h with ⟨⟨df, delay, count, hi, -⟩, -, rfl⟩ | ⟨-, hr, rfl⟩ | ⟨-, -, hovf, hill⟩
  · exact ⟨.inr rfl, fun _ => ⟨⟨df, delay, count, hi⟩, rfl⟩, fun hne => absurd rfl hne⟩
  · exact ⟨.inl rfl, fun hne => absurd rfl hne, fun _ => ⟨hr, rfl⟩⟩
  · exact ⟨.inl hovf, fun hne => absurd hovf hne, fun hne => absurd hill hne⟩

/-- Settles O55: the flags tell the errors apart, since a cycle records at most one. -/
theorem faultModelStopsAtRecordedErrors : Obligations.FaultModelStopsAtRecordedErrors := by
  refine ⟨rfl, rfl, fun s t hovf hill h => ?_⟩
  obtain ⟨hillegal, hoverflow, hnext⟩ := stopOnRecorded_eq_iff t
  rw [strictStep_of_step h]
  refine ⟨hillegal.trans ?_, hoverflow, hnext⟩
  obtain ⟨hreset, hflags⟩ := flagsStickUntilReset s t h
  cases hr : s.pins.rst with
  | true => simp [hreset hr]
  | false =>
    obtain ⟨hill_iff, -⟩ := hflags hr
    have hcause : t.ill = true ↔ s.pins.cmdValid = true ∧ 4 ≤ (s.pins.cmdWord.extractLsb 63 60).toNat := by
      simpa [hill] using hill_iff
    have halone : t.ill = true → t.ovf = false := by
      intro ht
      rcases step_ovf_or_ill_kept hr h with hkept | hkept
      · rw [hkept, hovf]
      · simp [hkept, hill] at ht
    rw [and_iff_right_of_imp halone, hcause, and_iff_right rfl]

/-- Settles O56: a bindable instance passes through a reset cycle, whatever it held before. -/
theorem constructRefusesBadBindings : Obligations.ConstructRefusesBadBindings := by
  intro b
  rw [← bindable_iff]
  exact ⟨fun h => (if_pos h).trans (cycle_reset rfl _), fun h => if_neg h⟩

/-- Settles O57: the step writes one place of the list. -/
theorem instancesShareNothing : Obligations.InstancesShareNothing := by
  intro k ps s hk
  obtain ⟨t, ht⟩ : ∃ t, step s = .next t := ⟨_, cycle_goes_on s.pins s.takePins⟩
  obtain ⟨hlt, -⟩ := List.getElem?_eq_some_iff.mp hk
  exact ⟨t, ps.set k t, ht, stepInstance_of_step hk ht, List.getElem?_set_self hlt, List.length_set,
    fun j hj => List.getElem?_set_ne hj.symm⟩

end Sys2Proof.Machine

namespace Sys2Proof.Machine

/-! SUPPORT. Cycles that leave the schedule of the gate (R206). -/

/-- A command that a host may poll with while something is pending (R114, R206). -/
def IsPolling (i : Instr) : Prop := i ≠ .stop ∧ ∀ df delay count, i = .move df delay count → count = 0

theorem keepsSchedule_iff (p : Pins) : keepsSchedule p = true ↔ p.rst = false ∧ IsPolling (commandOf p) := by
  cases hv : p.cmdValid with
  | false => simp [keepsSchedule, hv, commandOf_invalid hv, IsPolling]
  | true =>
    rw [commandOf_valid hv, keepsSchedule, hv]
    cases decode p.cmdWord <;> simp [IsPolling]

/-- A polling command writes at most `ill` and the response port (R105, R112, R113, R114). -/
theorem exec_of_isPolling {i : Instr} {s t : State} (hi : IsPolling i) (hp : s.pending ≠ 0) (h : exec i s = .next t) :
    ∃ ill valid data, t = setUnread s.ovf ill valid data s := by
  obtain ⟨hstop, hmove⟩ := hi
  rcases exec_cases h with ⟨-, rfl⟩ | ⟨df, delay, count, rfl, hm⟩ | ⟨hs, -⟩ | ⟨-, rfl⟩ | ⟨-, rfl⟩
  · exact ⟨_, _, _, rfl⟩
  · obtain rfl := hmove df delay count rfl
    have hkeeps : moveNothing s = s := if_neg hp
    rw [exec_move_zero, hkeeps] at h
    obtain rfl := Host.Outcome.next.inj h
    exact ⟨_, _, _, rfl⟩
  · exact absurd hs hstop
  · exact ⟨_, _, _, rfl⟩
  · exact ⟨_, _, _, rfl⟩

/-- A cycle without a reset runs its command, NOP where it carries none (R100, R115). -/
theorem cycle_of_exec {p : Pins} {s u t : State} (hr : p.rst = false) (hbefore : beforeCommand p.refTick s = u)
    (ht : exec (commandOf p) u = .next t) : cycle p s = .next (latchCoils t) := by
  rw [cycle, applyCommand_eq_exec, hbefore, ht, hr]
  rfl

/-- Below the period such a cycle counts its strobe and leaves the motion alone (R140, R206). -/
theorem cycle_keepsSchedule {p : Pins} {s : State} (hk : keepsSchedule p = true) (ha : s.armed = true) (hp : s.pending ≠ 0)
    (hd : s.div.toNat + p.refTick.toNat < s.period.toNat) :
    ∃ t, cycle p s = .next t ∧ t.div.toNat = s.div.toNat + p.refTick.toNat ∧
      t.phase = s.phase ∧ t.pending = s.pending ∧ t.en = s.en ∧ t.armed = true ∧ t.period = s.period := by
  obtain ⟨hr, hpoll⟩ := (keepsSchedule_iff p).mp hk
  obtain ⟨-, d, e, hcount⟩ := gateAndTick_counts (s := clearResponse s) ha hd
  obtain ⟨u, hu⟩ : ∃ u, exec (commandOf p) { clearResponse s with div := d } = .next u := ⟨_, exec_goes_on _ _⟩
  obtain ⟨ill, valid, data, rfl⟩ := exec_of_isPolling (s := { clearResponse s with div := d }) hpoll hp hu
  exact ⟨_, cycle_of_exec hr e hu, hcount, rfl, rfl, rfl, ha, rfl⟩

/-- Below the period such cycles count their strobes and leave the motion alone (R206). -/
theorem runCycles_keepsSchedule {ps : List Pins} {s : State} (hk : ps.all keepsSchedule = true) (ha : s.armed = true)
    (hp : s.pending ≠ 0) (hd : s.div.toNat + strobes ps < s.period.toNat) :
    ∃ t, runCycles ps s = .next t ∧ t.div.toNat = s.div.toNat + strobes ps ∧
      t.phase = s.phase ∧ t.pending = s.pending ∧ t.en = s.en ∧ t.armed = true ∧ t.period = s.period := by
  induction ps generalizing s with
  | nil => exact ⟨s, rfl, rfl, rfl, rfl, rfl, ha, rfl⟩
  | cons p ps ih =>
    rw [List.all_cons, Bool.and_eq_true] at hk
    obtain ⟨hkp, hkps⟩ := hk
    rw [strobes_cons, ← Nat.add_assoc] at hd ⊢
    obtain ⟨u, hu, hdiv, hphase, hpending, hen, harmed, hperiod⟩ :=
      cycle_keepsSchedule hkp ha hp (Nat.lt_of_add_right_lt hd)
    rw [runCycles_cons_next hu, ← hdiv, ← hphase, ← hpending, ← hen, ← hperiod]
    rw [← hdiv, ← hperiod] at hd
    exact ih hkps harmed (hpending ▸ hp) hd

/-! SUPPORT. Rounds of re-arming (R206). -/

/-- A MOVE with count ≠ 0 whose sum fits and is not 0 re-arms the gate (R102, R106). -/
theorem exec_move_rearms {s : State} {count : Int} (hc : count ≠ 0) (hne : s.pending.toInt + count ≠ 0)
    (hl : -2 ^ 31 ≤ s.pending.toInt + count) (hu : s.pending.toInt + count ≤ 2 ^ 31 - 1) (df : Bool) (delay : Nat) :
    exec (.move df delay count) s =
      .next (rearm { s with period := effectivePeriod df delay, pending := stepsOf (s.pending.toInt + count) }) :=
  (exec_move_accepted hc hl hu df delay).trans (congrArg _ (if_pos hne))

/-- A MOVE that adds something starts a new schedule, unless its cycle ticks or it ends the motion (R102, R106). -/
theorem cycle_rearms {p : Pins} {s : State} {df : Bool} {delay : Nat} {count : Int} (hr : p.rst = false)
    (hf : gateFires p.refTick s = false) (hi : commandOf p = .move df delay count) (hc : count ≠ 0)
    (hne : s.pending.toInt + count ≠ 0) (hl : -2 ^ 31 ≤ s.pending.toInt + count)
    (hu : s.pending.toInt + count ≤ 2 ^ 31 - 1) :
    ∃ t, cycle p s = .next t ∧ t.div = 0 ∧ t.phase = s.phase ∧ t.pending.toInt = s.pending.toInt + count ∧
      t.en = s.en ∧ t.armed = true ∧ t.period = effectivePeriod df delay := by
  obtain ⟨d, e⟩ := gateAndTick_of_no_fire (s := clearResponse s) hf
  have hrearms := exec_move_rearms (s := { clearResponse s with div := d }) hc hne hl hu df delay
  rw [← hi] at hrearms
  exact ⟨_, cycle_of_exec hr e hrearms, rfl, rfl, toInt_stepsOf hl hu, rfl, rfl, rfl⟩

/-- The round is a MOVE that adds something, and polling for fewer strobes than its period (R206). -/
def MoveRound.StopsShort (m : MoveRound) : Prop :=
  m.gap.all keepsSchedule = true ∧ ∃ df delay count, decode m.word = .move df delay count ∧ count ≠ 0 ∧
    strobes m.gap + 1 < if df = true then 1000 else max 500 delay

/-- From `pending` = x on, each of the rounds leaves something pending that fits the register (R104, R107). -/
def StaysPending (ms : List MoveRound) (x : Int) : Prop :=
  ∀ k, 1 ≤ k → k ≤ ms.length → x + roundCounts (ms.take k) ≠ 0 ∧
    -2 ^ 31 ≤ x + roundCounts (ms.take k) ∧ x + roundCounts (ms.take k) ≤ 2 ^ 31 - 1

theorem roundCounts_cons (m : MoveRound) (ms : List MoveRound) :
    roundCounts (m :: ms) = countField m.word + roundCounts ms := List.sum_cons

theorem StaysPending.head {m : MoveRound} {ms : List MoveRound} {x : Int} (h : StaysPending (m :: ms) x) :
    x + countField m.word ≠ 0 ∧ -2 ^ 31 ≤ x + countField m.word ∧ x + countField m.word ≤ 2 ^ 31 - 1 := by
  have hone : roundCounts ((m :: ms).take 1) = countField m.word := (roundCounts_cons m []).trans (Int.add_zero _)
  exact hone ▸ h 1 le_rfl (Nat.succ_le_succ (Nat.zero_le _))

theorem StaysPending.tail {m : MoveRound} {ms : List MoveRound} {x : Int} (h : StaysPending (m :: ms) x) :
    StaysPending ms (x + countField m.word) := by
  intro k _ hk
  have hnext := h (k + 1) (Nat.succ_pos k) (Nat.succ_le_succ hk)
  rwa [List.take_succ_cons, roundCounts_cons, ← Int.add_assoc] at hnext

/-- The operands of a MOVE are fields of its word (R72, R73). -/
theorem operands_of_decode_eq_move {w : CmdWord} {df : Bool} {delay : Nat} {count : Int} (h : decode w = .move df delay count) :
    delay < 2 ^ 27 ∧ count = countField w := by
  rcases decode_cases w with ⟨-, e⟩ | ⟨-, e⟩ | ⟨-, e⟩ | ⟨-, e⟩ | ⟨-, -, e⟩ | ⟨-, e⟩ <;> rw [e] at h <;> cases h
  exact ⟨delayField_lt w, rfl⟩

/-- One round adds its count, steps nothing, and leaves the gate short of its next fire (R206). -/
theorem runCycles_of_stopsShort {m : MoveRound} {s : State} (hm : m.StopsShort) (hf : gateFires true s = false)
    (hne : s.pending.toInt + countField m.word ≠ 0) (hl : -2 ^ 31 ≤ s.pending.toInt + countField m.word)
    (hu : s.pending.toInt + countField m.word ≤ 2 ^ 31 - 1) :
    ∃ t, runCycles m.cycles s = .next t ∧ t.phase = s.phase ∧ t.en = s.en ∧ t.armed = true ∧
      t.pending.toInt = s.pending.toInt + countField m.word ∧ gateFires true t = false := by
  obtain ⟨hgap, df, delay, count, hdec, hc, hshort⟩ := hm
  obtain ⟨hdelay, rfl⟩ := operands_of_decode_eq_move hdec
  have hf' : gateFires m.refTick s = false := by
    cases m.refTick with
    | true => exact hf
    | false => simp [gateFires]
  obtain ⟨u, hu, hdiv, hphase, hpending, hen, harmed, hperiod⟩ :=
    cycle_rearms (p := ⟨false, m.refTick, true, m.word⟩) rfl hf' hdec hc hne hl hu
  rw [← effectivePeriod_toNat hdelay, ← hperiod] at hshort
  have hpending' : u.pending ≠ 0 := fun h0 => hne (hpending ▸ (pending_eq_zero_iff _).mp h0)
  have hcount : u.div.toNat + strobes m.gap = strobes m.gap := by rw [hdiv]; exact Nat.zero_add _
  obtain ⟨t, ht, hdiv', hphase', hpending'', hen', harmed', hperiod'⟩ :=
    runCycles_keepsSchedule hgap harmed hpending' (by omega)
  refine ⟨t, (runCycles_cons_next hu _).trans ht, hphase'.trans hphase, hen'.trans hen, harmed', hpending'' ▸ hpending, ?_⟩
  rw [Bool.eq_false_iff, ne_eq, gateFires_iff, hdiv', hperiod']
  omega

/-- Rounds that all stop short add their counts and step nothing; the last of them leaves the gate armed (R206). -/
theorem runCycles_rounds {ms : List MoveRound} {s : State} (hms : ∀ m ∈ ms, m.StopsShort)
    (hf : gateFires true s = false) (hp : StaysPending ms s.pending.toInt) :
    ∃ t, runCycles (ms.map MoveRound.cycles).flatten s = .next t ∧ t.phase = s.phase ∧ t.en = s.en ∧
      t.pending.toInt = s.pending.toInt + roundCounts ms ∧ (ms ≠ [] ∨ s.armed = true → t.armed = true) := by
  induction ms generalizing s with
  | nil => exact ⟨s, rfl, rfl, rfl, (Int.add_zero _).symm, fun h => h.resolve_left (· rfl)⟩
  | cons m ms ih =>
    obtain ⟨hm, hrest⟩ := List.forall_mem_cons.mp hms
    obtain ⟨hne, hl, hu⟩ := hp.head
    obtain ⟨u, hrun, hphase, hen, harmed, hpending, hf'⟩ := runCycles_of_stopsShort hm hf hne hl hu
    obtain ⟨t, ht, hphase', hen', hpending', harmed'⟩ := ih hrest hf' (hpending ▸ hp.tail)
    refine ⟨t, ?_, hphase'.trans hphase, hen'.trans hen, ?_, fun _ => harmed' (.inr harmed)⟩
    · rw [List.map_cons, List.flatten_cons, runCycles_append, hrun, andThen_next, ht]
    · rw [hpending', hpending, roundCounts_cons, Int.add_assoc]

/-- Every cycle ends with the mux on the coils (R32, R147). -/
theorem cycle_coils {p : Pins} {s t : State} (h : cycle p s = .next t) : t.coils = mux t.en t.phase := by
  rcases cycle_cases h with ⟨-, rfl⟩ | ⟨-, -, rfl⟩ | ⟨-, -, u, -, rfl⟩ <;> rfl

/-- A run of at least one cycle ends with the mux on the coils (R147). -/
theorem runCycles_coils {ps : List Pins} {s t : State} (h : runCycles ps s = .next t)
    (hs : ps ≠ [] ∨ s.coils = mux s.en s.phase) : t.coils = mux t.en t.phase := by
  induction ps generalizing s with
  | nil =>
    obtain rfl := Host.Outcome.next.inj h
    exact hs.resolve_left (· rfl)
  | cons p ps ih =>
    have hc := cycle_goes_on p s
    rw [runCycles_cons_next hc] at h
    exact ih h (.inr (cycle_coils hc))

/-! PROOFS. Reset and hazards (spec/70_reset_and_hazards.md). -/

/-- Settles O52: each MOVE restarts the divider before its period is full, so no tick comes in any round. -/
theorem rearmingStarvesTheGate : Obligations.RearmingStarvesTheGate := by
  intro ms s hne hf hms hp
  obtain ⟨t, ht, hphase, hen, hpending, harmed⟩ := runCycles_rounds hms hf hp
  have hcycles : (ms.map MoveRound.cycles).flatten ≠ [] := by
    obtain ⟨m, ms, rfl⟩ := List.exists_cons_of_ne_nil hne
    exact List.cons_ne_nil _ _
  have hcoils := runCycles_coils ht (.inl hcycles)
  rw [hen, hphase] at hcoils
  exact ⟨t, ht, hphase, hen, hcoils, harmed (.inl hne), hpending⟩

/-- Settles O34: a reset cycle is RESET alone, and the mux of its state is off. -/
theorem resetWritesEveryRegister : Obligations.ResetWritesEveryRegister := fun _ h => step_reset h

end Sys2Proof.Machine
